-- ==== Sys2Proof/Word.lean ====
section
/-! DEFINITION. Words and cell addresses of the FDE unit.

"All register and memory values are unsigned integers in `0 .. 2^N - 1`" (R6 of 00_scope.md), with `N`
a parameter of each machine instance (R5), and all arithmetic is "on unbounded mathematical integers"
until a register or cell write truncates it (R6, R11). A word is therefore held as the natural number it
stands for, of type `Nat`; that it is below `2^N` is an invariant of the machine, not part of the type
(log 1). A cell address is any natural number (R30 of 20_memory.md). -/

namespace Sys2Proof

/-- `n` is a word of `width` bits: an unsigned value in `0 .. 2^width - 1` (R6). -/
abbrev IsWord (width n : Nat) : Prop :=
  n < 2 ^ width

end Sys2Proof
end

