-- ==== Sys2Proof/Config.lean ====
section
/-! DEFINITION. What construction and the assembler take as parameters (R5 of 00_scope.md), with the
names of the six registers. -/

namespace Sys2Proof

/-- The six registers (R10 of 10_state.md), in the order the source lists them. -/
inductive Reg where
  /-- accumulator (R12) -/
  | acc
  /-- index register (R13) -/
  | ix
  /-- named by the source and used by no rule (R14) -/
  | cir
  /-- memory address register: the address every `STO` writes (R15) -/
  | mar
  /-- memory data register, used by no rule (R16) -/
  | mdr
  /-- program counter (R17) -/
  | pc
  deriving DecidableEq, Repr

/-- The register file: exactly six registers, no aliases, no banks (R10). -/
structure RegFile where
  acc : Nat
  ix  : Nat
  cir : Nat
  mar : Nat
  mdr : Nat
  pc  : Nat
  deriving DecidableEq, Repr

namespace Config

/-- The smallest word width an instance can have (R5, R131). -/
def minWidth : Nat := 8

/-- The word width of `State.reset` (DESIGN CHOICE, log 2: the spec gives no default; this is its minimum). -/
def resetWidth : Nat := 8

/-- The default `INIT_REG`: every register 0 (R24, the spec's decision D1; DESIGN CHOICE, log 3). -/
def zeroRegs : RegFile := ⟨0, 0, 0, 0, 0, 0⟩

end Config

/-- What the host hands to construction (interface Configure of R22; R150). -/
structure Configuration where
  /-- the word width `N` (R5) -/
  width : Nat
  /-- `VERBOSE`: "no effect on any rule" (R5, R146; log 24) -/
  verbose : Bool
  /-- `INIT_REG` (R24) -/
  initReg : RegFile
  deriving DecidableEq, Repr

/-- `LABEL_SCALE`: 1 or 2 (R5, R72). -/
inductive LabelScale where
  /-- a label is its instruction index, as the source states (the default) -/
  | one
  /-- a label is the cell address of the labelled instruction's opcode cell -/
  | two
  deriving DecidableEq, Repr

/-- The factor a label's index is multiplied by. -/
def LabelScale.factor : LabelScale → Nat
  | .one => 1
  | .two => 2

/-- The parameters of the assembler (R5): `REGIDX` (R69) and `LABEL_SCALE` (R72). -/
structure AssemblerParams where
  /-- `REGIDX`, the operand a register name becomes; any integers (R5) -/
  regIdx : Reg → Int
  /-- `LABEL_SCALE` -/
  labelScale : LabelScale

/-- The default `REGIDX`: `ACC=0, IX=1, CIR=2, MAR=3, MDR=4, PC=5` (R69, decision D11; log 23). -/
def Config.defaultRegIdx : Reg → Int
  | .acc => 0
  | .ix  => 1
  | .cir => 2
  | .mar => 3
  | .mdr => 4
  | .pc  => 5

/-- The default assembler parameters (R69, R72; decisions D11, D12; log 23). -/
def Config.defaultAssembler : AssemblerParams :=
  { regIdx := Config.defaultRegIdx, labelScale := .one }

end Sys2Proof
end

