-- ==== Sys2Proof/Syntax.lean ====
section
/-! DEFINITION. The instructions: one constructor per row of the opcode table (R56 of 30_encoding.md).

"Every instruction has an operand cell, including the instructions that ignore it" (R52), so every
constructor carries its operand; where the operand form is `none` or `idx` the meaning does not look at
it (R61; log 21). -/

namespace Sys2Proof

/-- The 23 instructions of R56. -/
inductive Instr where
  /-- 0x00 `LDM`: `ACC <- opd` (R90) -/
  | ldm (opd : Nat)
  /-- 0x01 `LDD`: `ACC <- mem(opd)` (R91) -/
  | ldd (opd : Nat)
  /-- 0x02 `LDI`: `ACC <- mem(mem(opd))` (R92) -/
  | ldi (opd : Nat)
  /-- 0x03 `LDX`: `ACC <- mem(ACC + IX)` (R93) -/
  | ldx (opd : Nat)
  /-- 0x04 `LDR`: `IX <- opd` (R94) -/
  | ldr (opd : Nat)
  /-- 0x05 `MOV`: `IX <- ACC` (R95) -/
  | mov (opd : Nat)
  /-- 0x06 `STO`: `mem(MAR) <- ACC` (R96) -/
  | sto (opd : Nat)
  /-- 0x07 `END_NOP`, the source's data-move `END`: nothing (R97) -/
  | endNop (opd : Nat)
  /-- 0x10 `IN`: `ACC <- Input()` (R100) -/
  | input (opd : Nat)
  /-- 0x11 `OUT`: `Output(ACC)` or `Diag(ACC)` (R101) -/
  | output (opd : Nat)
  /-- 0x20 `ADD_ADDRESS`: `ACC <- ACC + mem(opd)` (R106) -/
  | addAddress (opd : Nat)
  /-- 0x21 `ADD_IMMEDIATE`: `ACC <- ACC + opd` (R107) -/
  | addImmediate (opd : Nat)
  /-- 0x22 `SUB_ADDRESS`: `ACC <- ACC - mem(opd)` (R108) -/
  | subAddress (opd : Nat)
  /-- 0x23 `SUB_IMMEDIATE`: `ACC <- ACC - opd` (R109) -/
  | subImmediate (opd : Nat)
  /-- 0x24 `INC`: declared, fatal `NotImplemented` (R110) -/
  | inc (opd : Nat)
  /-- 0x25 `DEC`: declared, fatal `NotImplemented` (R111) -/
  | dec (opd : Nat)
  /-- 0x30 `JMP`: `PC <- opd` (R115) -/
  | jmp (opd : Nat)
  /-- 0x31 `JPE`: `PC <- opd` if `ACC = 0` (R116) -/
  | jpe (opd : Nat)
  /-- 0x32 `JPN`: `PC <- opd` if `ACC != 0` (R117) -/
  | jpn (opd : Nat)
  /-- 0x33 `END`, the branching-group `END`: `halt <- 1` (R118) -/
  | endRun (opd : Nat)
  /-- 0x40 `CMP_ADDRESS`: flags from `ACC - mem(opd)` (R121) -/
  | cmpAddress (opd : Nat)
  /-- 0x41 `CMP_IMMEDIATE`: flags from `ACC - opd` (R122) -/
  | cmpImmediate (opd : Nat)
  /-- 0x42 `CMI_ADDRESS`: flags from `ACC - mem(mem(opd))` (R123) -/
  | cmiAddress (opd : Nat)
  deriving DecidableEq, Repr

/-- The five opcode groups (R2, R51). -/
inductive Group where
  | dataMove
  | inputOutput
  | arithmetic
  | branching
  | comparison
  deriving DecidableEq, Repr

/-- The operand forms of R53. -/
inductive OperandForm where
  /-- immediate (literal): `opd` itself -/
  | imm
  /-- direct: `MemRead(opd, 1)` -/
  | dir
  /-- indirect: `MemRead(MemRead(opd, 1), 1)` -/
  | ind
  /-- indexed: `MemRead(x[ACC] + x[IX], 1)`, `opd` not used -/
  | idx
  /-- branch target: the cell address `PC` takes -/
  | tgt
  /-- no operand: fetched and ignored -/
  | none
  deriving DecidableEq, Repr

/-- The operand cell's value in the instruction. -/
def Instr.operand : Instr → Nat
  | .ldm opd | .ldd opd | .ldi opd | .ldx opd | .ldr opd | .mov opd | .sto opd | .endNop opd
  | .input opd | .output opd
  | .addAddress opd | .addImmediate opd | .subAddress opd | .subImmediate opd | .inc opd | .dec opd
  | .jmp opd | .jpe opd | .jpn opd | .endRun opd
  | .cmpAddress opd | .cmpImmediate opd | .cmiAddress opd => opd

/-- The opcode group of each instruction (the column `group` of R56). -/
def Instr.group : Instr → Group
  | .ldm _ | .ldd _ | .ldi _ | .ldx _ | .ldr _ | .mov _ | .sto _ | .endNop _ => .dataMove
  | .input _ | .output _ => .inputOutput
  | .addAddress _ | .addImmediate _ | .subAddress _ | .subImmediate _ | .inc _ | .dec _ => .arithmetic
  | .jmp _ | .jpe _ | .jpn _ | .endRun _ => .branching
  | .cmpAddress _ | .cmpImmediate _ | .cmiAddress _ => .comparison

/-- The operand form of each instruction (R53, and the column `operand form` of R56). -/
def Instr.form : Instr → OperandForm
  | .ldm _ | .ldr _ | .addImmediate _ | .subImmediate _ | .cmpImmediate _ => .imm
  | .ldd _ | .addAddress _ | .subAddress _ | .cmpAddress _ => .dir
  | .ldi _ | .cmiAddress _ => .ind
  | .ldx _ => .idx
  | .jmp _ | .jpe _ | .jpn _ => .tgt
  | .mov _ | .sto _ | .endNop _ | .input _ | .output _ | .endRun _ | .inc _ | .dec _ => .none

/-- One pair of the instruction list the host hands to the load operation, before any check: "any
negative ... value is outside the wire form" (R54), so both parts are integers (log 18). -/
structure WirePair where
  opcode  : Int
  operand : Int
  deriving DecidableEq, Repr

end Sys2Proof
end

