-- ==== Sys2Proof/WellFormed.lean ====
section
/-! DEFINITION. The checks on what the host and the memory hand to the machine: the width (R5), an
instruction's operand (R52), a pair of the instruction list (R54). -/

namespace Sys2Proof

/-- An instruction fits a machine of width `width`: "The operand is an `N`-bit unsigned value" (R52). The
opcode needs no check: every constructor's opcode is a byte (R51). -/
def Instr.wellFormed (width : Nat) (i : Instr) : Bool :=
  decide (IsWord width i.operand)

/-- A configuration the constructor accepts: "construct with a word width ≥ 8" (R5, R131). -/
def Configuration.wellFormed (c : Configuration) : Bool :=
  decide (Config.minWidth ≤ c.width)

/-- A pair the load operation accepts: opcode in `0 .. 255`, operand not negative. An operand of `2^N` or
more is not refused: the loader's write truncates it (R54; decision D22, log 18). -/
def WirePair.wellFormed (p : WirePair) : Bool :=
  decide (0 ≤ p.opcode) && decide (p.opcode ≤ 255) && decide (0 ≤ p.operand)

/-- A list the load operation accepts (R54). -/
def wireListWellFormed (list : List WirePair) : Bool :=
  list.all WirePair.wellFormed

end Sys2Proof
end

