-- ==== Sys2Proof/Decode.lean ====
section
/-! DEFINITION. The decoder and the encoder, from the opcode table of R56 (30_encoding.md). -/

namespace Sys2Proof

/-- Why a pair of cells is no instruction: the whole value of the opcode cell is in no row of the table
(R57); the value is what `InvalidOpcodeError` reports. -/
inductive DecodeError where
  | invalidOpcode (opc : Nat)
  deriving DecidableEq, Repr

/-- Decode the two cells of an instruction. "Decode compares the whole value of the opcode cell with the
opcode table" (R55; for values above 255 the spec's decision D17, log 17); a value in no row is rejected
with that value (R57). "The operand cell has no invalid values" (R57). -/
def decode (opc opd : Nat) : Except DecodeError Instr :=
  match opc with
  | 0x00 => .ok (.ldm opd)
  | 0x01 => .ok (.ldd opd)
  | 0x02 => .ok (.ldi opd)
  | 0x03 => .ok (.ldx opd)
  | 0x04 => .ok (.ldr opd)
  | 0x05 => .ok (.mov opd)
  | 0x06 => .ok (.sto opd)
  | 0x07 => .ok (.endNop opd)
  | 0x10 => .ok (.input opd)
  | 0x11 => .ok (.output opd)
  | 0x20 => .ok (.addAddress opd)
  | 0x21 => .ok (.addImmediate opd)
  | 0x22 => .ok (.subAddress opd)
  | 0x23 => .ok (.subImmediate opd)
  | 0x24 => .ok (.inc opd)
  | 0x25 => .ok (.dec opd)
  | 0x30 => .ok (.jmp opd)
  | 0x31 => .ok (.jpe opd)
  | 0x32 => .ok (.jpn opd)
  | 0x33 => .ok (.endRun opd)
  | 0x40 => .ok (.cmpAddress opd)
  | 0x41 => .ok (.cmpImmediate opd)
  | 0x42 => .ok (.cmiAddress opd)
  | other => .error (.invalidOpcode other)

/-- The opcode of each instruction (R56). -/
def Instr.opcode : Instr → Nat
  | .ldm _ => 0x00
  | .ldd _ => 0x01
  | .ldi _ => 0x02
  | .ldx _ => 0x03
  | .ldr _ => 0x04
  | .mov _ => 0x05
  | .sto _ => 0x06
  | .endNop _ => 0x07
  | .input _ => 0x10
  | .output _ => 0x11
  | .addAddress _ => 0x20
  | .addImmediate _ => 0x21
  | .subAddress _ => 0x22
  | .subImmediate _ => 0x23
  | .inc _ => 0x24
  | .dec _ => 0x25
  | .jmp _ => 0x30
  | .jpe _ => 0x31
  | .jpn _ => 0x32
  | .endRun _ => 0x33
  | .cmpAddress _ => 0x40
  | .cmpImmediate _ => 0x41
  | .cmiAddress _ => 0x42

/-- Encode an instruction as its two cells, opcode cell first (format F2C, R50). -/
def encode (i : Instr) : Nat × Nat :=
  (i.opcode, i.operand)

/-- The high nibble of an opcode, the field `group` of R50. -/
def groupNibble (opc : Nat) : Nat :=
  opc / 16 % 16

/-- The low nibble of an opcode, the field `op` of R50. -/
def opNibble (opc : Nat) : Nat :=
  opc % 16

/-- The value of the field `group` for each opcode group (R50, R51). -/
def Group.nibble : Group → Nat
  | .dataMove => 0x0
  | .inputOutput => 0x1
  | .arithmetic => 0x2
  | .branching => 0x3
  | .comparison => 0x4

/-- Cut a number into the two cells of an instruction for words of `width` bits: the first cell is its
low `width` bits, the second the next `width` bits. Bits from `nbits` up count as 0. -/
def cellsOfBits (width nbits w : Nat) : Nat × Nat :=
  let bits := w % 2 ^ nbits
  (bits % 2 ^ width, bits / 2 ^ width % 2 ^ width)

/-- The instruction the decoder reads from a table word: cells of `Config.resetWidth` bits, the opcode cell
at the low end (log 20). -/
def decodeTableWord (nbits w : Nat) : Option Instr :=
  let cells := cellsOfBits Config.resetWidth nbits w
  (decode cells.1 cells.2).toOption

end Sys2Proof
end

