-- ==== Sys2Proof/Machine/State.lean ====
section
/-! DEFINITION. The state of one machine instance (10_state.md), the reasons a step can stop, and the state
right after construction (R151 of 70_reset_and_hazards.md). -/

namespace Sys2Proof.Machine

/-- The flag register (R18): "`{carry, negative, overflow, zero}`, each a single bit". -/
structure Flags where
  carry    : Bool
  negative : Bool
  overflow : Bool
  zero     : Bool
  deriving DecidableEq, Repr

/-- The memory (R20, R30): the cells that do not read 0, as (address, word) pairs with strictly rising
addresses. A cell is one `N`-bit word, not a byte (R31; log 1), and an address not listed reads 0, "unset
addresses read as zero" (R32). `Memory.wf` of Machine/Ops.lean states the form. -/
abbrev Memory := List (Nat × Nat)

/-- A device request that is outstanding (R102): "there is at most one". -/
inductive Request where
  /-- `IN` awaits the input device's answer (R100) -/
  | input
  /-- `OUT` awaits the output device's acknowledgment (R101) -/
  | output
  deriving DecidableEq, Repr

/-- One device operation of the engine, as its environment sees it (R41, R101, R103; log 15). -/
inductive Event where
  /-- a request to the input device -/
  | inputRequest
  /-- a word handed to the output device -/
  | output (w : Nat)
  /-- a word reported on the diagnostic channel, no output device being attached -/
  | diagnostic (w : Nat)
  deriving DecidableEq, Repr

/-- All the state of one machine instance. Plain data. -/
structure State where
  /-- the word width `N`, fixed at construction (R5; log 1): no step writes it -/
  width : Nat
  /-- the six registers (R10) -/
  regs : RegFile
  /-- the flag register (R18) -/
  flags : Flags
  /-- the halt flag (R19) -/
  halt : Bool
  /-- the memory (R20) -/
  mem : Memory
  /-- `L`, the number of instructions of the list most recently loaded (R21) -/
  listLen : Nat
  /-- `IN_ATTACHED` (R21) -/
  inAttached : Bool
  /-- `OUT_ATTACHED` (R21) -/
  outAttached : Bool
  /-- the model's own: a run is in progress, "the host ... acts only between runs" (R9, R22, R152; log 27). A
  launch sets it, the end of the run clears it, no instruction writes it. -/
  inRun : Bool
  /-- the pending device request (R23, R102, R151) -/
  pending : Option Request
  /-- the model's own: the words the attached input device will still answer with, in order. Empty: it
  never answers again. This is the oracle `INPUT` of R5 as data, and nothing constrains it (log 14). -/
  answers : List Int
  /-- the model's own: how many acknowledgments the attached output device will still give (log 15) -/
  acks : Nat
  /-- the model's own: every device operation so far, in program order (R41; log 15) -/
  events : List Event
  deriving DecidableEq, Repr

/-- The three run-time fatal conditions, a closed enumeration with no numeric codes (R130, R137). -/
inductive Condition where
  /-- `InvalidOpcodeError(opc)` (R133): raised at decode when the opcode cell's value is in no row of the
  table; reports the whole cell value. The spec's own stop: safe. -/
  | invalidOpcodeError (opc : Nat)
  /-- `NotImplemented(opc)` (R134): raised by `INC` and `DEC`. The spec's own stop: safe. -/
  | notImplemented (opc : Nat)
  /-- `MissingDeviceError` (R132): raised by `IN` when no input device is attached. The spec's own stop:
  safe. -/
  | missingDeviceError
  deriving DecidableEq, Repr

/-- Why no further step follows. The state stays the one the step was asked for: a run's final state is
"as it was before that step" (R86, R136). -/
inductive Fault where
  /-- a step raised a fatal condition and the run ends `Fatal` (R86, R136); raised by decode, `IN`, `INC`
  and `DEC`. Safe: it is the outcome the spec gives. -/
  | fatal (c : Condition)
  /-- the loop test found `halt = 1`: the run is over with the normal outcome `Halted` (R81, R86); raised
  by the loop test. Safe: no instruction is fetched (R139; log 7). -/
  | halted
  /-- the loop test found `halt = 0` and `pc >= 2L`: the run is over with the normal outcome `Exhausted`
  (R81, R86); raised by the loop test. Safe, as `halted` (log 7). -/
  | exhausted
  /-- no run is in progress: the unit steps only inside the load-and-run operation (R81, R153), so before a
  launch and after an outcome there is no step to make; raised by the loop test. Not an outcome of a run.
  Safe: nothing follows (log 27). -/
  | noRun
  deriving DecidableEq, Repr

/-- Why the model gives a step no meaning. -/
inductive Refusal where
  /-- the instruction named has no meaning in the model yet; raised only by a refused arm of `exec`. Safe:
  nothing can be proved about what follows. -/
  | notModelled (mnemonic : String)
  deriving DecidableEq, Repr

/-- The machine right after construction (R151) with the width `Config.resetWidth` (log 2), every register
0 (R24, D1; log 3), flags and halt 0 (R25, D2; log 4), no cell written, nothing loaded, no device attached
(R25), no run in progress (log 27). No device answers, because none is attached (logs 14, 15). -/
def State.reset : State where
  width := Config.resetWidth
  regs := Config.zeroRegs
  flags := ⟨false, false, false, false⟩
  halt := false
  mem := []
  listLen := 0
  inAttached := false
  outAttached := false
  inRun := false
  pending := none
  answers := []
  acks := 0
  events := []

end Sys2Proof.Machine
end

