-- ==== Sys2Proof/Machine/Ops.lean ====
section
/-! DEFINITION. The named operations every meaning is built from: truncation, register and memory access,
the program-counter update, raising a fatal condition, and the device calls. -/

namespace Sys2Proof.Machine

/-- What one step, or the rest of one, answers. -/
abbrev StepOutcome := Host.Outcome State Fault Refusal

/-! ### Truncation and registers -/

/-- `trunc_N(v) = v mod 2^N` for every integer `v`, in `0 .. 2^N - 1` (R6; for negative `v` the spec's
decision D3, log 5). -/
def trunc (width : Nat) (v : Int) : Nat :=
  (v % ((2 ^ width : Nat) : Int)).toNat

/-- The value a register file holds in `r`. -/
def getReg (f : RegFile) : Reg → Nat
  | .acc => f.acc
  | .ix  => f.ix
  | .cir => f.cir
  | .mar => f.mar
  | .mdr => f.mdr
  | .pc  => f.pc

/-- The register file with `w` in `r`. -/
def setReg (f : RegFile) (r : Reg) (w : Nat) : RegFile :=
  match r with
  | .acc => { f with acc := w }
  | .ix  => { f with ix := w }
  | .cir => { f with cir := w }
  | .mar => { f with mar := w }
  | .mdr => { f with mdr := w }
  | .pc  => { f with pc := w }

/-- `x[r]`: "A register read returns the stored value and has no side effect" (R11). -/
def State.reg (s : State) (r : Reg) : Nat :=
  getReg s.regs r

/-- `x[r] <- v`: stores `trunc_N(v)` (R7, R11). -/
def State.writeReg (s : State) (r : Reg) (v : Int) : State :=
  { s with regs := setReg s.regs r (trunc s.width v) }

/-! ### Memory -/

/-- The word a memory holds at an address: 0 where none is listed (R32). -/
def readCell : Memory → Nat → Nat
  | [], _ => 0
  | (b, w) :: m, a => if a = b then w else readCell m a

/-- The memory with `v` at `a`. The list stays in its form: addresses rising, no 0 listed. -/
def writeCell : Memory → Nat → Nat → Memory
  | [], a, v => if v = 0 then [] else [(a, v)]
  | (b, w) :: m, a, v =>
    if a < b then (if v = 0 then (b, w) :: m else (a, v) :: (b, w) :: m)
    else if a = b then (if v = 0 then m else (b, v) :: m)
    else (b, w) :: writeCell m a v

/-- Every address listed is `lo` or more, addresses rise strictly, no listed word is 0. -/
def Memory.wfFrom (lo : Nat) : Memory → Bool
  | [] => true
  | (a, v) :: m => decide (lo ≤ a) && decide (v ≠ 0) && Memory.wfFrom (a + 1) m

/-- The canonical form of a memory: equal memories are equal lists. -/
def Memory.wf (m : Memory) : Bool :=
  Memory.wfFrom 0 m

/-- Every listed word fits `width` bits (R20). -/
def Memory.fits (width : Nat) (m : Memory) : Bool :=
  m.all fun cell => decide (IsWord width cell.2)

/-- `MemRead(addr, 1)` (R32): every natural number is a readable address; no side effect. -/
def State.memRead (s : State) (a : Nat) : Nat :=
  readCell s.mem a

/-- `MemWrite(addr, 1, v)`: `mem(addr)` becomes `trunc_N(v)`, no other cell changes (R33). -/
def State.memWrite (s : State) (a : Nat) (v : Int) : State :=
  { s with mem := writeCell s.mem a (trunc s.width v) }

/-! ### Flags and the halt flag -/

/-- Write the flag register whole. -/
def State.writeFlags (s : State) (f : Flags) : State :=
  { s with flags := f }

/-- `halt <- 1` (R19). -/
def State.setHalt (s : State) : State :=
  { s with halt := true }

/-- The outcome of the run has been reported: no run is in progress any more, and the rest of the state
persists (R86; log 27). -/
def State.endRun (s : State) : State :=
  { s with inRun := false }

/-! ### How a step ends -/

/-- The automatic advance `pc <- pc + 2`, "stored as trunc_N(pc + 2)" (R85). -/
def State.advance (s : State) : State :=
  s.writeReg .pc ((s.reg .pc : Int) + 2)

/-- End a non-jumping instruction: `PC` advances by 2 (R85). -/
def complete (s : State) : StepOutcome :=
  .next s.advance

/-- `pc <- target`: a taken jump sets `PC` and suppresses the advance (R7, R85). -/
def jumpTo (target : Nat) (s : State) : StepOutcome :=
  .next (s.writeReg .pc target)

/-- `raise c` (R7), taking a fatal condition (R136): no register, cell, flag or `halt` changes, `pc` is not
advanced, nothing is saved, no handler exists and no instruction follows. The run's final state is the one
the step started from, so no state is answered (log 13). There is no return from it (R140). -/
def raise (c : Condition) : StepOutcome :=
  .fault (.fatal c)

/-! ### Device calls -/

/-- Make the request `req`, which the environment sees as `ev`, unless it is already outstanding: the
device is called once per executed `IN` or `OUT`, however long it takes to answer (R100, R101, R102). -/
def State.issue (s : State) (req : Request) (ev : Event) : State :=
  if s.pending = some req then s
  else { s with pending := some req, events := s.events ++ [ev] }

/-- The outstanding input request is answered, `rest` being what the device has left (R103: the `k`-th
answer belongs to the `k`-th request). -/
def State.answered (s : State) (rest : List Int) : State :=
  { s with pending := none, answers := rest }

/-- The outstanding output is acknowledged, `left` acknowledgments remaining (R101: it "carries no data and
changes no state"). -/
def State.acknowledged (s : State) (left : Nat) : State :=
  { s with pending := none, acks := left }

/-- `Diag(v)`: report a word on the diagnostic channel; no wait, no failure (R101, R141). -/
def State.diagnose (s : State) (w : Nat) : State :=
  { s with events := s.events ++ [.diagnostic w] }

/-- The words handed to the output device so far, in order: "the machine's observable output" (R101). -/
def State.outputs (s : State) : List Nat :=
  s.events.filterMap fun e => match e with
    | .output w => some w
    | .inputRequest | .diagnostic _ => none

/-- The words sent to the diagnostic channel so far, "a separate sequence" (R101). -/
def State.diagnostics (s : State) : List Nat :=
  s.events.filterMap fun e => match e with
    | .diagnostic w => some w
    | .inputRequest | .output _ => none

/-- How many requests the input device has been sent (R100: one per executed `IN`). -/
def State.requestCount (s : State) : Nat :=
  s.events.countP (· = .inputRequest)

end Sys2Proof.Machine
end

