-- ==== Sys2Proof/Machine/Cycle.lean ====
section
/-! DEFINITION. The loop test and the fetch (R81, R82 of 40_cycle.md), and placing an instruction where the
next step fetches. -/

namespace Sys2Proof.Machine

/-- The loop test, made before every step: the run goes on "while halt = 0 and pc < 2*L" (R81; the spec's
decision D6, log 8). `halt` is tested first (R86). Some reason: the run is over, or there is none (log 27). -/
def runEnd (s : State) : Option Fault :=
  if !s.inRun then some .noRun
  else if s.halt then some .halted
  else if 2 * s.listLen ≤ s.reg .pc then some .exhausted
  else none

/-- `opc <- MemRead(pc, 1)` (R82). -/
def fetchOpcode (s : State) : Nat :=
  s.memRead (s.reg .pc)

/-- `opd <- MemRead(pc + 1, 1)`; "`pc + 1` is not truncated" (R82, R43; the spec's decision D10, log 11). -/
def fetchOperand (s : State) : Nat :=
  s.memRead (s.reg .pc + 1)

/-- Fetch and decode (R82, R83): memory as it is at this moment (R40), the whole opcode cell. -/
def fetch (s : State) : Except DecodeError Instr :=
  decode (fetchOpcode s) (fetchOperand s)

/-- The two cells of an instruction stored at `pc`, in a state whose next step fetches there: a run in
progress, `halt` clear, the list long enough that the loop test passes, no request outstanding (log 19). Where the loop test
would pass already, `L` stays. -/
def State.placeAtPc (s : State) (opc opd : Nat) : State :=
  { (s.memWrite (s.reg .pc) opc).memWrite (s.reg .pc + 1) opd with
    inRun := true
    halt := false
    listLen := max s.listLen (s.reg .pc / 2 + 1)
    pending := none }

end Sys2Proof.Machine
end

