-- ==== Sys2Proof/Machine/Operands.lean ====
section
/-! DEFINITION. The operand forms of R53 (30_encoding.md): the value, or the address, an instruction works
on. The operand is "never sign-extended, scaled, shifted or combined with other bits". -/

namespace Sys2Proof.Machine

/-- Form `imm`: `opd` itself. -/
def immediate (opd : Nat) (_s : State) : Nat :=
  opd

/-- Form `dir`: `MemRead(opd, 1)`. -/
def direct (opd : Nat) (s : State) : Nat :=
  s.memRead opd

/-- Form `ind`: `MemRead(MemRead(opd, 1), 1)`, the two reads in this order (R42). -/
def indirect (opd : Nat) (s : State) : Nat :=
  s.memRead (s.memRead opd)

/-- The address of form `idx`: `x[ACC] + x[IX]`, "mathematical sum ... not truncated" (R43, R93; the spec's
decision D10, log 11). -/
def indexedAddress (s : State) : Nat :=
  s.reg .acc + s.reg .ix

/-- Form `idx`: `MemRead(x[ACC] + x[IX], 1)`; `opd` is not used. -/
def indexed (s : State) : Nat :=
  s.memRead (indexedAddress s)

/-- Form `tgt`: "`opd` is the cell address that `PC` takes"; absolute, whole (R119). -/
def target (opd : Nat) : Nat :=
  opd

/-- The cell `STO` writes: the address in `MAR`, "not at the instruction's operand" (R15, R96). -/
def storeAddress (s : State) : Nat :=
  s.reg .mar

end Sys2Proof.Machine
end

