-- ==== Sys2Proof/Machine/Arithmetic.lean ====
section
/-! DEFINITION. The arithmetic instructions, group 0x2_ (43_arithmetic.md). Results are computed on integers
and truncated by the register write (R105); no flag is written, no carry or borrow is recorded. -/

namespace Sys2Proof.Machine

/-- `x[ACC] <- x[ACC] + v`, "stored as (x[ACC] + v) mod 2^N" (R105 (a)). -/
def addToAcc (v : Nat) (s : State) : StepOutcome :=
  complete (s.writeReg .acc ((s.reg .acc : Int) + (v : Int)))

/-- `x[ACC] <- x[ACC] - v`, "stored as (x[ACC] - v) mod 2^N" (R105 (b); the spec's decision D3, log 5). -/
def subFromAcc (v : Nat) (s : State) : StepOutcome :=
  complete (s.writeReg .acc ((s.reg .acc : Int) - (v : Int)))

/-- `ADD_ADDRESS` (R106). -/
def execAddAddress (opd : Nat) (s : State) : StepOutcome :=
  addToAcc (direct opd s) s

/-- `ADD_IMMEDIATE` (R107). -/
def execAddImmediate (opd : Nat) (s : State) : StepOutcome :=
  addToAcc (immediate opd s) s

/-- `SUB_ADDRESS` (R108). -/
def execSubAddress (opd : Nat) (s : State) : StepOutcome :=
  subFromAcc (direct opd s) s

/-- `SUB_IMMEDIATE` (R109). -/
def execSubImmediate (opd : Nat) (s : State) : StepOutcome :=
  subFromAcc (immediate opd s) s

/-- `INC` (R110): `raise NotImplemented(0x24)`, always; "must not silently treat them as valid no-ops" (R58;
the spec's decision D4, log 6). -/
def execInc (_opd : Nat) (_s : State) : StepOutcome :=
  raise (.notImplemented 0x24)

/-- `DEC` (R111): `raise NotImplemented(0x25)`, always (log 6). -/
def execDec (_opd : Nat) (_s : State) : StepOutcome :=
  raise (.notImplemented 0x25)

end Sys2Proof.Machine
end

