-- ==== Sys2Proof/Machine/Branching.lean ====
section
/-! DEFINITION. The branching instructions, group 0x3_ (44_branching.md). The conditions test `ACC`; no flag
is read or written (R116, R117; conflict C3). -/

namespace Sys2Proof.Machine

/-- `JMP` (R115): `pc <- opd`; absolute, unscaled, no alignment. -/
def execJmp (opd : Nat) (s : State) : StepOutcome :=
  jumpTo (target opd) s

/-- `JPE` (R116): `pc <- opd` if `x[ACC] = 0`; else the advance (the spec's decision D7, log 9). -/
def execJpe (opd : Nat) (s : State) : StepOutcome :=
  if s.reg .acc = 0 then jumpTo (target opd) s else complete s

/-- `JPN` (R117): `pc <- opd` if `x[ACC] != 0`; else the advance (log 9). -/
def execJpn (opd : Nat) (s : State) : StepOutcome :=
  if s.reg .acc ≠ 0 then jumpTo (target opd) s else complete s

/-- `END` (R118), the branching-group `END`: `halt <- 1`; it does not set `PC`, so the advance follows (the
spec's decision D8, log 9). -/
def execEnd (_opd : Nat) (s : State) : StepOutcome :=
  complete s.setHalt

end Sys2Proof.Machine
end

