-- ==== Sys2Proof/Machine/Flags.lean ====
section
/-! DEFINITION. The one flag computation of the machine (R120 of 45_comparison.md). -/

namespace Sys2Proof.Machine

/-- The flags after comparing `acc` with `v`, from the untruncated difference `d = acc - v`: `zero` when
`d = 0`, `carry` and `negative` when `d < 0`, all three cleared when `d > 0`; "`overflow` is never touched"
(R120). -/
def compareFlags (acc v : Nat) (old : Flags) : Flags :=
  let d : Int := (acc : Int) - (v : Int)
  { zero := decide (d = 0)
    carry := decide (d < 0)
    negative := decide (d < 0)
    overflow := old.overflow }

/-- Compare `ACC` with `v`: write `zero`, `carry` and `negative`, nothing else (R120). -/
def State.compare (s : State) (v : Nat) : State :=
  s.writeFlags (compareFlags (s.reg .acc) v s.flags)

end Sys2Proof.Machine
end

