-- ==== Sys2Proof/Machine/Comparison.lean ====
section
/-! DEFINITION. The comparison instructions, group 0x4_ (45_comparison.md): the only writers of flags (R18).
`_ADDRESS` reads memory and `_IMMEDIATE` uses the literal (conflict C2). -/

namespace Sys2Proof.Machine

/-- Compare `ACC` with `v` and advance; `ACC` and memory are unchanged (R120). -/
def compareWith (v : Nat) (s : State) : StepOutcome :=
  complete (s.compare v)

/-- `CMP_ADDRESS` (R121). -/
def execCmpAddress (opd : Nat) (s : State) : StepOutcome :=
  compareWith (direct opd s) s

/-- `CMP_IMMEDIATE` (R122). -/
def execCmpImmediate (opd : Nat) (s : State) : StepOutcome :=
  compareWith (immediate opd s) s

/-- `CMI_ADDRESS` (R123). -/
def execCmiAddress (opd : Nat) (s : State) : StepOutcome :=
  compareWith (indirect opd s) s

end Sys2Proof.Machine
end

