-- ==== Sys2Proof/Machine/DataMove.lean ====
section
/-! DEFINITION. The data-move instructions, group 0x0_ (41_data_move.md). None writes a flag, none raises a
fatal condition, none touches a device. -/

namespace Sys2Proof.Machine

/-- `ACC <- v`, then advance: the shape of the four loads. -/
def loadAcc (v : Nat) (s : State) : StepOutcome :=
  complete (s.writeReg .acc v)

/-- `IX <- v`, then advance. -/
def loadIx (v : Nat) (s : State) : StepOutcome :=
  complete (s.writeReg .ix v)

/-- `LDM` (R90): `x[ACC] <- opd`. -/
def execLdm (opd : Nat) (s : State) : StepOutcome :=
  loadAcc (immediate opd s) s

/-- `LDD` (R91): `x[ACC] <- MemRead(opd, 1)`. -/
def execLdd (opd : Nat) (s : State) : StepOutcome :=
  loadAcc (direct opd s) s

/-- `LDI` (R92): `x[ACC] <- MemRead(MemRead(opd, 1), 1)`. -/
def execLdi (opd : Nat) (s : State) : StepOutcome :=
  loadAcc (indirect opd s) s

/-- `LDX` (R93): `x[ACC] <- MemRead(x[ACC] + x[IX], 1)`, with the `ACC` from before; the operand takes no
part. -/
def execLdx (_opd : Nat) (s : State) : StepOutcome :=
  loadAcc (indexed s) s

/-- `LDR` (R94): `x[IX] <- opd`. -/
def execLdr (opd : Nat) (s : State) : StepOutcome :=
  loadIx (immediate opd s) s

/-- `MOV` (R95): `x[IX] <- x[ACC]`, whatever the operand cell holds. -/
def execMov (_opd : Nat) (s : State) : StepOutcome :=
  loadIx (s.reg .acc) s

/-- `STO` (R96): `MemWrite(x[MAR], 1, x[ACC])`; the operand takes no part (R157). -/
def execSto (_opd : Nat) (s : State) : StepOutcome :=
  complete (s.memWrite (storeAddress s) (s.reg .acc))

/-- `END_NOP` (R97), the data-move `END`: nothing; "it does not set `halt`". -/
def execEndNop (_opd : Nat) (s : State) : StepOutcome :=
  complete s

end Sys2Proof.Machine
end

