-- ==== Sys2Proof/Machine/InputOutput.lean ====
section
/-! DEFINITION. The input/output instructions, group 0x1_ (42_io.md).

"The engine blocks its own forward progress until each [device call] resolves" (R102). A step that waits
answers a state in which the request is outstanding and nothing else has changed; asked again while the
device still has no answer it answers the same state, so a device that never answers makes a run that
never ends and has no outcome (R145; logs 14, 15). -/

namespace Sys2Proof.Machine

/-- `IN` (R100): with no input device, `MissingDeviceError` before any request; else one request, and when
the device answers `w`, `x[ACC] <- w`, "stored as trunc_N(w)". -/
def execIn (_opd : Nat) (s : State) : StepOutcome :=
  if s.inAttached then
    let asked := s.issue .input .inputRequest
    match asked.answers with
    | [] => .next asked
    | w :: rest => complete ((asked.answered rest).writeReg .acc w)
  else raise .missingDeviceError

/-- `OUT` (R101): with an output device, hand it `ACC` once and wait for the acknowledgment; with none,
report `ACC` on the diagnostic channel and go on (R141). -/
def execOut (_opd : Nat) (s : State) : StepOutcome :=
  if s.outAttached then
    let handed := s.issue .output (.output (s.reg .acc))
    match handed.acks with
    | 0 => .next handed
    | left + 1 => complete (handed.acknowledged left)
  else complete (s.diagnose (s.reg .acc))

end Sys2Proof.Machine
end

