-- ==== Sys2Proof/Machine/Dispatch.lean ====
section
/-! DEFINITION. Execute (R84 of 40_cycle.md): one arm per instruction, each one call of its meaning. -/

namespace Sys2Proof.Machine

def exec (i : Instr) (s : State) : Host.Outcome State Fault Refusal :=
  match i with
  | .ldm opd => Sys2Proof.Machine.execLdm opd s
  | .ldd opd => Sys2Proof.Machine.execLdd opd s
  | .ldi opd => Sys2Proof.Machine.execLdi opd s
  | .ldx opd => Sys2Proof.Machine.execLdx opd s
  | .ldr opd => Sys2Proof.Machine.execLdr opd s
  | .mov opd => Sys2Proof.Machine.execMov opd s
  | .sto opd => Sys2Proof.Machine.execSto opd s
  | .endNop opd => Sys2Proof.Machine.execEndNop opd s
  | .input opd => Sys2Proof.Machine.execIn opd s
  | .output opd => Sys2Proof.Machine.execOut opd s
  | .addAddress opd => Sys2Proof.Machine.execAddAddress opd s
  | .addImmediate opd => Sys2Proof.Machine.execAddImmediate opd s
  | .subAddress opd => Sys2Proof.Machine.execSubAddress opd s
  | .subImmediate opd => Sys2Proof.Machine.execSubImmediate opd s
  | .inc opd => Sys2Proof.Machine.execInc opd s
  | .dec opd => Sys2Proof.Machine.execDec opd s
  | .jmp opd => Sys2Proof.Machine.execJmp opd s
  | .jpe opd => Sys2Proof.Machine.execJpe opd s
  | .jpn opd => Sys2Proof.Machine.execJpn opd s
  | .endRun opd => Sys2Proof.Machine.execEnd opd s
  | .cmpAddress opd => Sys2Proof.Machine.execCmpAddress opd s
  | .cmpImmediate opd => Sys2Proof.Machine.execCmpImmediate opd s
  | .cmiAddress opd => Sys2Proof.Machine.execCmiAddress opd s

end Sys2Proof.Machine
end

