-- ==== Sys2Proof/Machine/Step.lean ====
section
/-! DEFINITION. One step of the machine: loop test, fetch, decode, execute (R81 to R85 of 40_cycle.md). -/

namespace Sys2Proof.Machine

/-- One step. The loop test comes before everything (R139); an opcode value in no row raises
`InvalidOpcodeError` with that value (R83, R133); otherwise the instruction executes to completion. -/
def step (s : State) : Host.Outcome State Fault Refusal :=
  match runEnd s with
  | some reason => .fault reason
  | none =>
    match fetch s with
    | .error (.invalidOpcode opc) => raise (.invalidOpcodeError opc)
    | .ok i => exec i s

/-- `s` with the instruction whose bits are `w` stored where the next step fetches it, its cells `width` bits
wide, the opcode cell at the low end (logs 19, 20). -/
def State.withFetchWord (s : State) (nbits w : Nat) : State :=
  let cells := cellsOfBits s.width nbits w
  s.placeAtPc cells.1 cells.2

end Sys2Proof.Machine
end

