-- ==== Sys2Proof/Machine/Assembler.lean ====
section
/-! DEFINITION. The assembler (R62 to R74 of 30_encoding.md): "pure function from program text to an ordered
sequence of instruction words". It is software around the unit (R3); it does not know `N`. Text is a list
of characters; lines end at a line feed (log 22). -/

namespace Sys2Proof.Machine

/-- Program text, a line, or a token. -/
abbrev Text := List Char

/-- The assembler's fatal conditions (R73, R130, R135): "Either ends the assembly with no output". -/
inductive AssemblerError where
  /-- `UnresolvedLabelError`: a label operand is not in the label table -/
  | unresolvedLabelError
  /-- `InvalidOperandError`: an operand is neither numeric nor a label name -/
  | invalidOperandError
  deriving DecidableEq, Repr

/-- A line as its three fields, padded with empty ones (R63). -/
structure Fields where
  first  : Text
  second : Text
  third  : Text
  deriving DecidableEq, Repr

/-- An operand token after intermediate generation. -/
inductive OperandToken where
  /-- a literal, a register's index, or the 0 of an empty operand (R67, R68, R69) -/
  | number (n : Int)
  /-- "kept as a string": a label reference (R70) -/
  | symbol (name : Text)
  /-- a literal with no digits, a wrong digit or a sign (R67, decision D20) -/
  | malformed
  deriving DecidableEq, Repr

/-- An intermediate instruction (R65): `{label, mnemonicOrResolvedOpcodeName, operand}`. -/
structure Intermediate where
  label      : Text
  opcodeName : Text
  operand    : OperandToken
  deriving DecidableEq, Repr

/-! ### Preprocess (R63) -/

/-- "strip trailing comments (`;` onward)". -/
def stripComment (line : Text) : Text :=
  line.takeWhile (· ≠ ';')

/-- The tokens of a line, separated by white space. -/
def tokens (line : Text) : List Text :=
  (line.splitOnP Char.isWhitespace).filter (fun t => !t.isEmpty)

/-- "exactly 3 fields ... padding with empty strings or truncating extra tokens beyond 3"; a line with no
token is dropped (decision D19). -/
def fieldsOf : List Text → Option Fields
  | [] => none
  | [a] => some ⟨a, [], []⟩
  | [a, b] => some ⟨a, b, []⟩
  | a :: b :: c :: _ => some ⟨a, b, c⟩

/-- The lines of a text as fields. -/
def preprocess (text : Text) : List Fields :=
  (text.splitOnP (· = '\n')).filterMap fun line => fieldsOf (tokens (stripComment line))

/-! ### Label extraction (R64) -/

/-- The pattern `^[A-Za-z]+:$`. -/
def isLabel (token : Text) : Bool :=
  match token.reverse with
  | ':' :: name => !name.isEmpty && name.all Char.isAlpha
  | _ => false

/-- A label's name, "stored without its colon" (R64, decision D18). -/
def labelName (token : Text) : Text :=
  token.dropLast

/-- The label table from instruction index `k` on. A labelled instruction advances the index, a label-only
line does not (R64, decisions D19, D23). -/
def labelTable (k : Nat) : List Fields → List (Text × Nat)
  | [] => []
  | f :: fs =>
    if isLabel f.first then
      (labelName f.first, k) :: labelTable (if f.second.isEmpty then k else k + 1) fs
    else labelTable (k + 1) fs

/-! ### Intermediate generation (R65 to R70) -/

/-- "if field 0 is not a label, shift fields right (empty label)"; the third token is then lost (R65). -/
def alignFields (f : Fields) : Fields :=
  if isLabel f.first then f else ⟨[], f.first, f.second⟩

/-- The operand token begins with a value prefix, `#`, `&` or `B` (R66). -/
def hasValuePrefix : Text → Bool
  | '#' :: _ | '&' :: _ | 'B' :: _ => true
  | _ => false

/-- The three abbreviated mnemonics; "other mnemonics pass through unchanged" (R66). -/
def resolveMnemonic (mnemonic operand : Text) : Text :=
  let pick (imm addr : Text) : Text := if hasValuePrefix operand then imm else addr
  if mnemonic = "ADD".toList then pick "ADD_IMMEDIATE".toList "ADD_ADDRESS".toList
  else if mnemonic = "SUB".toList then pick "SUB_IMMEDIATE".toList "SUB_ADDRESS".toList
  else if mnemonic = "CMP".toList then pick "CMP_IMMEDIATE".toList "CMP_ADDRESS".toList
  else mnemonic

/-- The value of a digit in `base`; hexadecimal digits in either case (decision D20). -/
def digitValue (base : Nat) (c : Char) : Option Nat :=
  let n := c.toNat
  let v :=
    if 48 ≤ n ∧ n ≤ 57 then n - 48
    else if 65 ≤ n ∧ n ≤ 70 then n - 55
    else if 97 ≤ n ∧ n ≤ 102 then n - 87
    else base
  if v < base then some v else none

/-- The number a string of digits spells, after `acc`. -/
def digitsValue (base : Nat) (acc : Nat) : Text → Option Nat
  | [] => some acc
  | c :: cs =>
    match digitValue base c with
    | some v => digitsValue base (acc * base + v) cs
    | none => none

/-- A literal after its prefix: one or more digits of the base, no sign (R67, decision D20). -/
def literal (base : Nat) (digits : Text) : OperandToken :=
  if digits.isEmpty then .malformed
  else match digitsValue base 0 digits with
    | some n => .number n
    | none => .malformed

/-- The register a token names, exactly as spelled (R69, decision D18). -/
def registerNamed (token : Text) : Option Reg :=
  if token = "ACC".toList then some .acc
  else if token = "IX".toList then some .ix
  else if token = "CIR".toList then some .cir
  else if token = "MAR".toList then some .mar
  else if token = "MDR".toList then some .mdr
  else if token = "PC".toList then some .pc
  else none

/-- The operand token: empty is 0 (R68); the prefix test comes before the register test and the label test
(R67); a register name becomes its index (R69); "anything else is kept as a string" (R70). -/
def operandToken (params : AssemblerParams) : Text → OperandToken
  | [] => .number 0
  | '#' :: digits => literal 10 digits
  | '&' :: digits => literal 16 digits
  | 'B' :: digits => literal 2 digits
  | token =>
    match registerNamed token with
    | some r => .number (params.regIdx r)
    | none => .symbol token

/-- One intermediate instruction from a line's aligned fields; a label-only line makes none (R65, decision
D19). -/
def intermediateOf (params : AssemblerParams) (f : Fields) : Option Intermediate :=
  let g := alignFields f
  if g.second.isEmpty then none
  else some ⟨g.first, resolveMnemonic g.second g.third, operandToken params g.third⟩

/-- The intermediate instructions of a program, in line order (R65). -/
def intermediates (params : AssemblerParams) (lines : List Fields) : List Intermediate :=
  lines.filterMap (intermediateOf params)

/-! ### Linking (R71 to R73) -/

/-- The full mnemonic table (R56, R71). `END` is 0x33 (R59, decision D5; log 23); `END_NOP` "is not a
mnemonic". -/
def mnemonicTable : List (Text × Nat) :=
  [("LDM".toList, 0x00), ("LDD".toList, 0x01), ("LDI".toList, 0x02), ("LDX".toList, 0x03),
   ("LDR".toList, 0x04), ("MOV".toList, 0x05), ("STO".toList, 0x06), ("END".toList, 0x33),
   ("IN".toList, 0x10), ("OUT".toList, 0x11),
   ("ADD_ADDRESS".toList, 0x20), ("ADD_IMMEDIATE".toList, 0x21),
   ("SUB_ADDRESS".toList, 0x22), ("SUB_IMMEDIATE".toList, 0x23),
   ("INC".toList, 0x24), ("DEC".toList, 0x25),
   ("JMP".toList, 0x30), ("JPE".toList, 0x31), ("JPN".toList, 0x32),
   ("CMP_ADDRESS".toList, 0x40), ("CMP_IMMEDIATE".toList, 0x41), ("CMI_ADDRESS".toList, 0x42)]

/-- The opcode of a name: "unknown mnemonic → opcode `0xFF`, a sentinel invalid instruction" (R71). -/
def opcodeNamed (name : Text) : Nat :=
  (mnemonicTable.lookup name).getD 0xFF

/-- Link one instruction: a label operand becomes `LABEL_SCALE * instructionIndex`, "if a name is bound
twice the first binding is used" (R64, R72); a number passes through; any other shape is
`InvalidOperandError` (R73). -/
def link (params : AssemblerParams) (labels : List (Text × Nat)) (im : Intermediate) :
    Except AssemblerError WirePair :=
  match im.operand with
  | .number n => .ok ⟨opcodeNamed im.opcodeName, n⟩
  | .symbol name =>
    match labels.lookup name with
    | some k => .ok ⟨opcodeNamed im.opcodeName, ((params.labelScale.factor * k : Nat) : Int)⟩
    | none => .error .unresolvedLabelError
  | .malformed => .error .invalidOperandError

/-- Link a program in order; the first failing instruction ends the assembly (R73; log 22). -/
def linkAll (params : AssemblerParams) (labels : List (Text × Nat)) :
    List Intermediate → Except AssemblerError (List WirePair)
  | [] => .ok []
  | im :: ims =>
    match link params labels im with
    | .error e => .error e
    | .ok p =>
      match linkAll params labels ims with
      | .error e => .error e
      | .ok ps => .ok (p :: ps)

/-- Assemble a program text (R62, R74): the four stages in order. -/
def assemble (params : AssemblerParams) (text : Text) : Except AssemblerError (List WirePair) :=
  let lines := preprocess text
  linkAll params (labelTable 0 lines) (intermediates params lines)

end Sys2Proof.Machine
end

