-- ==== Sys2Proof/Machine/Launch.lean ====
section
/-! DEFINITION. The host's operations between runs: construction, attachment, the load of a list
(70_reset_and_hazards.md), and a device's late answer (R102 of 42_io.md). -/

namespace Sys2Proof.Machine

/-- Why the machine turns an operation of the host down; no state results. -/
inductive HostError where
  /-- `ConfigurationError` (R131): construction with a width below 8 -/
  | configurationError
  /-- the list is not in the wire form (R54, decision D22; log 18) -/
  | listOutsideWireForm
  /-- a run is in progress: launching and attaching are possible "between runs" only (R22, R151, R152;
  log 27) -/
  | runInProgress
  deriving DecidableEq, Repr

/-- `INIT_REG` as the registers hold it: every register write truncates (R11, R24; log 26). -/
def truncRegs (width : Nat) (f : RegFile) : RegFile :=
  { acc := trunc width f.acc
    ix := trunc width f.ix
    cir := trunc width f.cir
    mar := trunc width f.mar
    mdr := trunc width f.mdr
    pc := trunc width f.pc }

/-- Construction, the power-on reset (R150): with a width below 8 no instance exists (R131); else the state
of R151. `VERBOSE` has no effect (R146; log 24). -/
def construct (c : Configuration) : Except HostError State :=
  if c.wellFormed then
    .ok { State.reset with width := c.width, regs := truncRegs c.width c.initReg }
  else .error .configurationError

/-- Attach an input device that will answer with `answers`, in order, and then never again; it replaces any
attached earlier (R152, decision D15; logs 14, 16). "Attachment during a run is not possible" (R152). -/
def attachInput (answers : List Int) (s : State) : Except HostError State :=
  if s.inRun then .error .runInProgress
  else .ok { s with inAttached := true, answers := answers }

/-- Attach an output device that will acknowledge `acks` times; it replaces any attached earlier (R152,
decision D15; logs 15, 16), and only between runs. -/
def attachOutput (acks : Nat) (s : State) : Except HostError State :=
  if s.inRun then .error .runInProgress
  else .ok { s with outAttached := true, acks := acks }

/-- The attached input device comes up with one more answer; "what lifts the hold is the device's answer,
and nothing else" (R102). With no input device there is none to answer. -/
def deliverAnswer (w : Int) (s : State) : State :=
  if s.inAttached then { s with answers := s.answers ++ [w] } else s

/-- The attached output device comes up with one more acknowledgment (R102). -/
def deliverAck (s : State) : State :=
  if s.outAttached then { s with acks := s.acks + 1 } else s

/-- Write a list of pairs from cell `a` up: opcode, then operand, in consecutive cells (R80). -/
def loadPairs (a : Nat) : List WirePair → State → State
  | [], s => s
  | p :: ps, s => loadPairs (a + 2) ps ((s.memWrite a p.opcode).memWrite (a + 1) p.operand)

/-- Load and launch (R80, R153): write the list into cells `0 .. 2L - 1`, record `L`, `pc <- 0`, and
`halt <- 0` (the spec's decision D13, log 12), and the run is in progress. Everything else is kept (R154). "A
launch cannot start during a run" (R151); a list outside the wire form is refused (R54). -/
def launch (list : List WirePair) (s : State) : Except HostError State :=
  if s.inRun then .error .runInProgress
  else if wireListWellFormed list then
    .ok { (loadPairs 0 list s).writeReg .pc 0 with listLen := list.length, halt := false, inRun := true }
  else .error .listOutsideWireForm

end Sys2Proof.Machine
end

