-- ==== Sys2Proof/Machine/Run.lean ====
section
/-! DEFINITION. A run: the loop of R81 and its outcome (R86 of 40_cycle.md), bounded by a count of loop
tests. -/

namespace Sys2Proof.Machine

/-- What a run, or as much of it as was asked for, comes to. -/
structure RunResult where
  /-- `Halted`, `Exhausted` or `Fatal(condition)` (R86), or `noRun` if none was in progress; none while the
  run is not over -/
  outcome : Option Fault
  /-- the state the run left, which the host may read (R156) -/
  final : State
  deriving DecidableEq, Repr

/-- The run loop, for at most `tests` loop tests (R81): the outcome comes from the step that raised it, and
the final state is "as left by the last step", or "as it was before that step" for a fatal one (R86), with
no run in progress any more. -/
def run : Nat → State → RunResult
  | 0, s => ⟨none, s⟩
  | tests + 1, s =>
    match step s with
    | .next t => run tests t
    | .fault reason => ⟨some reason, s.endRun⟩
    | .refused _ => ⟨none, s⟩

/-- The load-and-run operation `execute` of the source (R80, R81). -/
def execute (tests : Nat) (list : List WirePair) (s : State) : Except HostError RunResult :=
  match launch list s with
  | .ok t => .ok (run tests t)
  | .error e => .error e

end Sys2Proof.Machine
end

