-- ==== Sys2Proof/Safety.lean ====
section
/-! DEFINITION. The terms claims use: what an instruction leaves alone, a well-formed state, a waiting state,
an invalid opcode. -/

namespace Sys2Proof.Machine

/-! ### Frames: what is unchanged from `s` to `t` -/

/-- Every register not in `written` is unchanged. -/
def RegsKept (written : List Reg) (s t : State) : Prop :=
  ∀ r, r ∉ written → t.reg r = s.reg r

/-- Every cell reads as before. -/
def MemKept (s t : State) : Prop :=
  ∀ a : Nat, t.memRead a = s.memRead a

/-- Every cell but `a` reads as before. -/
def MemKeptExcept (a : Nat) (s t : State) : Prop :=
  ∀ b : Nat, b ≠ a → t.memRead b = s.memRead b

/-- No device is called and none answers. -/
structure DevicesKept (s t : State) : Prop where
  pending : t.pending = s.pending
  answers : t.answers = s.answers
  acks : t.acks = s.acks
  events : t.events = s.events

/-- What no instruction ever writes outside the registers: the width, `L`, the attachments and whether a run is
in progress (R5, R21, R22). -/
structure SetupKept (s t : State) : Prop where
  width : t.width = s.width
  listLen : t.listLen = s.listLen
  inAttached : t.inAttached = s.inAttached
  outAttached : t.outAttached = s.outAttached
  inRun : t.inRun = s.inRun

/-- Nothing changes but the registers in `written`. -/
structure OnlyRegs (written : List Reg) (s t : State) : Prop where
  regs : RegsKept written s t
  flags : t.flags = s.flags
  halt : t.halt = s.halt
  mem : MemKept s t
  devices : DevicesKept s t
  setup : SetupKept s t

/-- Nothing changes but the registers in `written` and the device fields (`pending`, `answers`, `acks`,
`events`): the frame of `IN` and `OUT`. -/
structure OnlyRegsAndDevices (written : List Reg) (s t : State) : Prop where
  regs : RegsKept written s t
  flags : t.flags = s.flags
  halt : t.halt = s.halt
  mem : MemKept s t
  setup : SetupKept s t

/-- `PC` has advanced by 2, modulo `2^N` (R85). -/
def PcAdvanced (s t : State) : Prop :=
  t.reg .pc = (s.reg .pc + 2) % 2 ^ s.width

/-- The whole effect of an instruction that writes `v` to the one register `r` and is not a jump. -/
structure WritesOnly (r : Reg) (v : Nat) (s t : State) : Prop where
  value : t.reg r = v % 2 ^ s.width
  pc : PcAdvanced s t
  frame : OnlyRegs [r, .pc] s t

/-- The whole effect of a jump taken to `target`. -/
structure JumpsTo (target : Nat) (s t : State) : Prop where
  pc : t.reg .pc = target % 2 ^ s.width
  frame : OnlyRegs [.pc] s t

/-- The flag rows of R120 for `ACC` against `v`, and everything else unchanged but `PC`. -/
structure Compares (v : Nat) (s t : State) : Prop where
  equal : s.reg .acc = v →
    t.flags.zero = true ∧ t.flags.carry = false ∧ t.flags.negative = false
  less : s.reg .acc < v →
    t.flags.zero = false ∧ t.flags.carry = true ∧ t.flags.negative = true
  greater : v < s.reg .acc →
    t.flags.zero = false ∧ t.flags.carry = false ∧ t.flags.negative = false
  overflow : t.flags.overflow = s.flags.overflow
  pc : PcAdvanced s t
  regs : RegsKept [.pc] s t
  halt : t.halt = s.halt
  mem : MemKept s t
  devices : DevicesKept s t
  setup : SetupKept s t

/-- The whole effect of a store of `v` at cell `a` (R33, R96). -/
structure StoresOnly (a v : Nat) (s t : State) : Prop where
  stored : t.memRead a = v % 2 ^ s.width
  mem : MemKeptExcept a s t
  pc : PcAdvanced s t
  regs : RegsKept [.pc] s t
  flags : t.flags = s.flags
  halt : t.halt = s.halt
  devices : DevicesKept s t
  setup : SetupKept s t

/-! ### Instructions and encodings -/

/-- `i` is the instruction of opcode `opc` and operand `opd`, read and written. -/
def EncodedAs (opc opd : Nat) (i : Instr) : Prop :=
  encode i = (opc, opd) ∧ decode opc opd = .ok i

/-- The invalid opcode-cell values, range by range as R57 lists them. -/
def InvalidOpcode (opc : Nat) : Prop :=
  (0x08 ≤ opc ∧ opc ≤ 0x0F) ∨ (0x12 ≤ opc ∧ opc ≤ 0x1F) ∨ (0x26 ≤ opc ∧ opc ≤ 0x2F) ∨
  (0x34 ≤ opc ∧ opc ≤ 0x3F) ∨ (0x43 ≤ opc ∧ opc ≤ 0xFF) ∨ 0x100 ≤ opc

/-- The next step fetches: a run is in progress and the loop test lets it go on (R81). -/
def State.Running (s : State) : Prop :=
  s.inRun = true ∧ s.halt = false ∧ s.reg .pc < 2 * s.listLen

/-- The state with its flags replaced, for claims that flags are not read (R124). -/
def State.withFlags (s : State) (f : Flags) : State :=
  { s with flags := f }

/-! ### Well-formed states -/

/-- Inside a step that awaits `req` (R102): the run is in progress, `pc` still addresses the `IN` or `OUT`,
its device is attached, and the call is the last device operation made. -/
def State.Waiting (s : State) : Request → Prop
  | .input =>
    s.Running ∧ s.inAttached = true ∧ fetchOpcode s = 0x10 ∧ s.events.getLast? = some .inputRequest
  | .output =>
    s.Running ∧ s.outAttached = true ∧ fetchOpcode s = 0x11 ∧
      s.events.getLast? = some (.output (s.reg .acc))

/-- What the rules make true of every state an instance can be in: a legal width (R5), every register and
cell an `N`-bit word (R10, R20), memory in its canonical form, and a request outstanding only inside the
step that made it (R102). -/
structure State.WellFormed (s : State) : Prop where
  width_ok : Config.minWidth ≤ s.width
  regs_fit : ∀ r, IsWord s.width (s.reg r)
  mem_canonical : Memory.wf s.mem = true
  mem_fits : Memory.fits s.width s.mem = true
  waiting : ∀ req, s.pending = some req → s.Waiting req

end Sys2Proof.Machine
end

