-- ==== Sys2Proof/Certificates/Slice0/Obligations.lean ====
section
/-! DEFINITION. The statements for the provers. Each docstring says what is claimed and the rules it rests on. -/

open Sys2Proof Sys2Proof.Machine

/-- For every state of width 8 or more with canonical memory and every instruction whose operand fits the
width: after writing the two cells of its encoding at pc and pc + 1, fetch and decode give back exactly
that instruction, operand included. It holds at pc = 2^N - 1 too, the operand cell address pc + 1 not
being truncated (the spec's decision D10, log 11). (Rests on 30_encoding.md sections 1, 3 and 4,
20_memory.md section 4, 92_eei_decisions.md D10.) -/
def Obligations.EncodedInstructionIsFetchedBack : Prop :=
  ∀ (s : State) (i : Instr), Config.minWidth ≤ s.width → Memory.wf s.mem = true →
    i.wellFormed s.width = true →
    fetch ((s.memWrite (s.reg .pc) (encode i).1).memWrite (s.reg .pc + 1) (encode i).2) = .ok i

/-- For all cell values opc and opd and every instruction i: decode opc opd is i if and only if encode i is
(opc, opd). No bit of either cell is dropped, and each pair of cells has at most one reading. That no bit
of an opcode cell of 256 or more is masked away is the spec's decision D17 (log 17); that the operand of
an instruction that ignores it is kept is the model's choice (log 21). (Rests on 30_encoding.md sections 1
and 4, 92_eei_decisions.md D17, notes/assumptions/21.md.) -/
def Obligations.DecodeAgreesWithEncode : Prop :=
  ∀ (opc opd : Nat) (i : Instr), decode opc opd = .ok i ↔ encode i = (opc, opd)

/-- For every operand value, each of the 23 opcode values of the opcode table, written as a number, decodes to
the constructor of its row with that operand. (Rests on 30_encoding.md section 4.) -/
def Obligations.OpcodeTableRowsDecode : Prop :=
  ∀ opd : Nat,
    decode 0x00 opd = .ok (.ldm opd) ∧
    decode 0x01 opd = .ok (.ldd opd) ∧
    decode 0x02 opd = .ok (.ldi opd) ∧
    decode 0x03 opd = .ok (.ldx opd) ∧
    decode 0x04 opd = .ok (.ldr opd) ∧
    decode 0x05 opd = .ok (.mov opd) ∧
    decode 0x06 opd = .ok (.sto opd) ∧
    decode 0x07 opd = .ok (.endNop opd) ∧
    decode 0x10 opd = .ok (.input opd) ∧
    decode 0x11 opd = .ok (.output opd) ∧
    decode 0x20 opd = .ok (.addAddress opd) ∧
    decode 0x21 opd = .ok (.addImmediate opd) ∧
    decode 0x22 opd = .ok (.subAddress opd) ∧
    decode 0x23 opd = .ok (.subImmediate opd) ∧
    decode 0x24 opd = .ok (.inc opd) ∧
    decode 0x25 opd = .ok (.dec opd) ∧
    decode 0x30 opd = .ok (.jmp opd) ∧
    decode 0x31 opd = .ok (.jpe opd) ∧
    decode 0x32 opd = .ok (.jpn opd) ∧
    decode 0x33 opd = .ok (.endRun opd) ∧
    decode 0x40 opd = .ok (.cmpAddress opd) ∧
    decode 0x41 opd = .ok (.cmpImmediate opd) ∧
    decode 0x42 opd = .ok (.cmiAddress opd)

/-- For every instruction: its opcode is at most 255, the high nibble is the number of its group (0 data-move,
1 I/O, 2 arithmetic, 3 branching, 4 comparison), and high and low nibble together make the opcode. (Rests
on 30_encoding.md section 1.) -/
def Obligations.OpcodeNibblesNameTheGroup : Prop :=
  ∀ i : Instr, i.opcode ≤ 255 ∧ groupNibble i.opcode = i.group.nibble ∧
    i.opcode = 16 * groupNibble i.opcode + opNibble i.opcode

/-- For every state the loop test lets run and every value opc: the step stops with InvalidOpcodeError(opc) if
and only if the opcode cell holds opc and opc lies in one of the gaps 0x08-0x0F, 0x12-0x1F, 0x26-0x2F,
0x34-0x3F, 0x43-0xFF or is 0x100 or more. The last range is the spec's own decision D17 (log 17). (Rests
on 30_encoding.md section 4, 60_exceptions.md section 1, 92_eei_decisions.md D17.) -/
def Obligations.InvalidOpcodesAreFatal : Prop :=
  ∀ (s : State) (opc : Nat), s.Running →
    (step s = .fault (.fatal (.invalidOpcodeError opc)) ↔ fetchOpcode s = opc ∧ InvalidOpcode opc)

/-- When a run is in progress (log 27), halt is 0 and pc < 2L and the cells at pc and pc + 1 decode to i, the
step at that state is exec of i at that state: nothing is added before or after. pc < 2L as the loop test
is the spec's decision D6 (log 8), pc + 1 untruncated its decision D10 (log 11). (Rests on 40_cycle.md
section 2, 92_eei_decisions.md D6, 92_eei_decisions.md D10, notes/assumptions/27.md.) -/
def Obligations.StepRunsTheFetchedInstruction : Prop :=
  ∀ (s : State) (i : Instr), s.inRun = true → s.halt = false → s.reg .pc < 2 * s.listLen →
    decode (s.memRead (s.reg .pc)) (s.memRead (s.reg .pc + 1)) = .ok i → step s = exec i s

/-- For every state and operand: LDM (0x00), LDD (0x01) and LDI (0x02) complete; ACC becomes the literal,
mem(opd), mem(mem(opd)) (as an N-bit word), PC advances by 2 modulo 2^N, and every other register, the
flags, halt, every cell, the devices and the setup are unchanged. (Rules R90, R91, R92.) -/
def Obligations.LoadsWriteAccOnly : Prop :=
  ∀ (s : State) (opd : Nat),
    (EncodedAs 0x00 opd (.ldm opd) ∧
      ∃ t, exec (.ldm opd) s = .next t ∧ WritesOnly .acc opd s t) ∧
    (EncodedAs 0x01 opd (.ldd opd) ∧
      ∃ t, exec (.ldd opd) s = .next t ∧ WritesOnly .acc (s.memRead opd) s t) ∧
    (EncodedAs 0x02 opd (.ldi opd) ∧
      ∃ t, exec (.ldi opd) s = .next t ∧ WritesOnly .acc (s.memRead (s.memRead opd)) s t)

/-- For every state and operand: LDX (0x03) completes; ACC becomes the word of the cell at ACC + IX, both as
they were before and the sum not reduced modulo 2^N (the spec's decision D10, log 11); PC advances;
nothing else changes, and the operand plays no part. (Rests on 41_data_move.md (LDX), 20_memory.md section
4, 92_eei_decisions.md D10.) -/
def Obligations.LdxReadsTheUntruncatedSum : Prop :=
  ∀ (s : State) (opd : Nat), EncodedAs 0x03 opd (.ldx opd) ∧
    ∃ t, exec (.ldx opd) s = .next t ∧ WritesOnly .acc (s.memRead (s.reg .acc + s.reg .ix)) s t

/-- For every state and operand: LDR (0x04) completes with IX the literal; MOV (0x05) completes with IX the
value of ACC whatever its operand; PC advances by 2 modulo 2^N; every other register, ACC included, the
flags, halt, every cell, the devices and the setup are unchanged. (Rules R94, R95.) -/
def Obligations.LdrAndMovWriteIxOnly : Prop :=
  ∀ (s : State) (opd : Nat),
    (EncodedAs 0x04 opd (.ldr opd) ∧
      ∃ t, exec (.ldr opd) s = .next t ∧ WritesOnly .ix opd s t) ∧
    (EncodedAs 0x05 opd (.mov opd) ∧
      ∃ t, exec (.mov opd) s = .next t ∧ WritesOnly .ix (s.reg .acc) s t)

/-- For every state with canonical memory and every operand: STO (0x06) completes; the cell at the model's
store address, which is MAR and not the operand, reads ACC (as an N-bit word), every other cell reads as
before, PC advances, and registers, flags, halt, devices and setup are unchanged. (Rule R96.) -/
def Obligations.StoWritesTheCellInMarOnly : Prop :=
  ∀ (s : State) (opd : Nat), Memory.wf s.mem = true → EncodedAs 0x06 opd (.sto opd) ∧
    storeAddress s = s.reg .mar ∧
    ∃ t, exec (.sto opd) s = .next t ∧ StoresOnly (storeAddress s) (s.reg .acc) s t

/-- For every state and operand: END_NOP (0x07) completes; PC advances by 2 modulo 2^N and nothing else
changes, halt included; and no mnemonic assembles to 0x07, END being 0x33 by the spec's decision D5 (log
23). (Rests on 41_data_move.md (END_NOP), 30_encoding.md section 5, 92_eei_decisions.md D5.) -/
def Obligations.EndNopOnlyAdvancesPc : Prop :=
  ∀ (s : State) (opd : Nat), EncodedAs 0x07 opd (.endNop opd) ∧
    (∀ name, opcodeNamed name ≠ 0x07) ∧
    ∃ t, exec (.endNop opd) s = .next t ∧ PcAdvanced s t ∧ OnlyRegs [.pc] s t

/-- For every state with an input device attached, no request outstanding and an answer w next, and every
operand: IN (0x10) completes; ACC is w modulo 2^N (for w outside the word range by the spec's decision
D15, log 16), PC advances, one input request is recorded, the answer is used up, no request is left, and
everything else is unchanged. Answers and the record of calls are the model's own fields (logs 14, 15).
(Rests on 42_io.md (IN), 92_eei_decisions.md D15, notes/assumptions/14.md.) -/
def Obligations.InStoresTheAnswer : Prop :=
  ∀ (s : State) (opd : Nat) (w : Int) (rest : List Int), s.inAttached = true → s.pending = none →
    s.answers = w :: rest → EncodedAs 0x10 opd (.input opd) ∧
    ∃ t, exec (.input opd) s = .next t ∧
      (t.reg .acc : Int) = w % ((2 ^ s.width : Nat) : Int) ∧ PcAdvanced s t ∧
      t.pending = none ∧ t.answers = rest ∧ t.acks = s.acks ∧
      t.events = s.events ++ [.inputRequest] ∧ OnlyRegsAndDevices [.acc, .pc] s t

/-- For every state and instruction: execution stops with MissingDeviceError if and only if the instruction is
IN and no input device is attached. In particular IN with none attached always stops so, whatever else the
state holds, and no other instruction ever does. (Rule R132.) -/
def Obligations.MissingDeviceIsRaisedByInAlone : Prop :=
  ∀ (s : State) (i : Instr), exec i s = .fault (.fatal .missingDeviceError) ↔
    (∃ opd, i = .input opd) ∧ s.inAttached = false

/-- For every state with an input device attached and no answer: IN answers a next state in which the input
request is outstanding and recorded once; pc still addresses the IN, and no register, cell, flag or halt
bit has changed. Waiting as a step that changes only the request is the model's choice (log 14). (Rests on
42_io.md (IN, blocking), notes/assumptions/14.md.) -/
def Obligations.InWithoutAnswerWaits : Prop :=
  ∀ (s : State) (opd : Nat), s.inAttached = true → s.answers = [] →
    ∃ t, exec (.input opd) s = .next t ∧ t.pending = some .input ∧ t.answers = [] ∧
      t.acks = s.acks ∧
      t.events = (if s.pending = some .input then s.events else s.events ++ [.inputRequest]) ∧
      OnlyRegsAndDevices [] s t

/-- For every state with an output device attached and no request outstanding, and every operand: OUT (0x11)
hands ACC to the device exactly once; with an acknowledgment to come it completes, PC advancing and
nothing else changing; with none it waits with pc at the OUT. Acknowledgments and the record of calls are
the model's own fields (log 15). (Rests on 42_io.md (OUT, blocking), notes/assumptions/15.md.) -/
def Obligations.OutHandsAccToTheDeviceOnce : Prop :=
  ∀ (s : State) (opd : Nat), s.outAttached = true → s.pending = none →
    EncodedAs 0x11 opd (.output opd) ∧
    (∀ left, s.acks = left + 1 → ∃ t, exec (.output opd) s = .next t ∧ PcAdvanced s t ∧
      t.pending = none ∧ t.acks = left ∧ t.answers = s.answers ∧
      t.outputs = s.outputs ++ [s.reg .acc] ∧ t.diagnostics = s.diagnostics ∧
      t.requestCount = s.requestCount ∧ OnlyRegsAndDevices [.pc] s t) ∧
    (s.acks = 0 → ∃ t, exec (.output opd) s = .next t ∧
      t.pending = some .output ∧ t.acks = 0 ∧ t.answers = s.answers ∧
      t.outputs = s.outputs ++ [s.reg .acc] ∧ t.diagnostics = s.diagnostics ∧
      t.requestCount = s.requestCount ∧ OnlyRegsAndDevices [] s t)

/-- For every state with no output device attached and every operand: OUT completes; ACC is appended to the
words on the diagnostic channel and to no other sequence, PC advances by 2 modulo 2^N, and nothing else
changes. (Rule R141.) -/
def Obligations.UnattachedOutIsNotFatal : Prop :=
  ∀ (s : State) (opd : Nat), s.outAttached = false →
    ∃ t, exec (.output opd) s = .next t ∧ PcAdvanced s t ∧
      t.diagnostics = s.diagnostics ++ [s.reg .acc] ∧ t.outputs = s.outputs ∧
      t.requestCount = s.requestCount ∧ t.pending = s.pending ∧ t.answers = s.answers ∧
      t.acks = s.acks ∧ OnlyRegsAndDevices [.pc] s t

/-- For every state with the device attached, nothing outstanding and no answer: IN waits; when the device
then delivers w, executing the IN again completes it with ACC = w modulo 2^N, and the events of both steps
together are one input request. The same for OUT and its acknowledgment, with one hand-off of ACC in all.
Waiting and late delivery are the model's choices (logs 14, 15). (Rests on 42_io.md (blocking, device
contract), notes/assumptions/14.md, notes/assumptions/15.md.) -/
def Obligations.LateAnswerCompletesTheWaitingCall : Prop :=
  ∀ (s : State) (opd : Nat), s.pending = none →
    (∀ w : Int, s.inAttached = true → s.answers = [] →
      ∃ u t, exec (.input opd) s = .next u ∧ exec (.input opd) (deliverAnswer w u) = .next t ∧
        (t.reg .acc : Int) = w % ((2 ^ s.width : Nat) : Int) ∧ PcAdvanced s t ∧ t.pending = none ∧
        t.answers = [] ∧ t.acks = s.acks ∧ t.events = s.events ++ [.inputRequest] ∧
        OnlyRegsAndDevices [.acc, .pc] s t) ∧
    (s.outAttached = true → s.acks = 0 →
      ∃ u t, exec (.output opd) s = .next u ∧ exec (.output opd) (deliverAck u) = .next t ∧
        PcAdvanced s t ∧ t.pending = none ∧ t.acks = 0 ∧ t.answers = s.answers ∧
        t.events = s.events ++ [.output (s.reg .acc)] ∧ OnlyRegsAndDevices [.pc] s t)

/-- For every running state at an IN whose attached device has no answer left, or at an OUT whose attached
device has no acknowledgment left, and every number of loop tests: the run has no outcome, and its state
agrees with the first in every register (pc included), cell, flag and halt. A hang as a run without end is
the model's form of it (logs 14, 15). (Rests on 42_io.md (blocking), 60_exceptions.md section 4,
notes/assumptions/14.md.) -/
def Obligations.UnansweredDeviceStallsTheRun : Prop :=
  ∀ (s : State) (opd k : Nat), s.Running →
    (fetch s = .ok (.input opd) ∧ s.inAttached = true ∧ s.answers = [] ∨
      fetch s = .ok (.output opd) ∧ s.outAttached = true ∧ s.acks = 0) →
    (run k s).outcome = none ∧ OnlyRegsAndDevices [] s (run k s).final

/-- For every instruction that answers a next state: the record of device calls is the old one with at most
one call appended, and for an instruction outside the I/O group it is unchanged. The record is the model's
own field (log 15). (Rests on 20_memory.md section 3, 42_io.md, notes/assumptions/15.md.) -/
def Obligations.DeviceCallsFollowProgramOrder : Prop :=
  ∀ (s t : State) (i : Instr), exec i s = .next t →
    (∃ calls, t.events = s.events ++ calls ∧ calls.length ≤ 1) ∧
    (i.group ≠ .inputOutput → DevicesKept s t)

/-- For every state and operand: ADD_ADDRESS (0x20) and ADD_IMMEDIATE (0x21) complete; ACC becomes (ACC +
mem(opd)) mod 2^N or (ACC + opd) mod 2^N, PC advances, and every other register, all four flags, halt,
every cell, the devices and the setup are unchanged. (Rules R106, R107.) -/
def Obligations.AdditionsWrapAndWriteNoFlag : Prop :=
  ∀ (s : State) (opd : Nat),
    (EncodedAs 0x20 opd (.addAddress opd) ∧
      ∃ t, exec (.addAddress opd) s = .next t ∧ WritesOnly .acc (s.reg .acc + s.memRead opd) s t) ∧
    (EncodedAs 0x21 opd (.addImmediate opd) ∧
      ∃ t, exec (.addImmediate opd) s = .next t ∧ WritesOnly .acc (s.reg .acc + opd) s t)

/-- For every state and operand: SUB_ADDRESS (0x22) and SUB_IMMEDIATE (0x23) complete; ACC becomes (ACC - v)
mod 2^N for v = mem(opd) or opd, the integer remainder in 0 .. 2^N - 1 also for a negative difference (the
spec's decision D3, log 5); PC advances and nothing else changes. (Rests on 43_arithmetic.md,
92_eei_decisions.md D3.) -/
def Obligations.SubtractionsWrapAndWriteNoFlag : Prop :=
  ∀ (s : State) (opd : Nat),
    (EncodedAs 0x22 opd (.subAddress opd) ∧ ∃ t, exec (.subAddress opd) s = .next t ∧
      (t.reg .acc : Int) = ((s.reg .acc : Int) - s.memRead opd) % ((2 ^ s.width : Nat) : Int) ∧
      PcAdvanced s t ∧ OnlyRegs [.acc, .pc] s t) ∧
    (EncodedAs 0x23 opd (.subImmediate opd) ∧ ∃ t, exec (.subImmediate opd) s = .next t ∧
      (t.reg .acc : Int) = ((s.reg .acc : Int) - opd) % ((2 ^ s.width : Nat) : Int) ∧
      PcAdvanced s t ∧ OnlyRegs [.acc, .pc] s t)

/-- For every state and operand: INC (0x24) stops with the fatal condition NotImplemented(0x24) and DEC (0x25)
with NotImplemented(0x25), on every path. This is the spec's own decision D4 (log 6). (Rests on
43_arithmetic.md (INC, DEC), 92_eei_decisions.md D4.) -/
def Obligations.IncAndDecRaiseNotImplemented : Prop :=
  ∀ (s : State) (opd : Nat),
    (EncodedAs 0x24 opd (.inc opd) ∧ exec (.inc opd) s = .fault (.fatal (.notImplemented 0x24))) ∧
    (EncodedAs 0x25 opd (.dec opd) ∧ exec (.dec opd) s = .fault (.fatal (.notImplemented 0x25)))

/-- For every state and operand: JMP (0x30) completes; PC is the operand (as an N-bit word), not the operand
plus 2; nothing else changes. (Rule R115.) -/
def Obligations.JmpSetsPcToItsOperand : Prop :=
  ∀ (s : State) (opd : Nat), EncodedAs 0x30 opd (.jmp opd) ∧
    ∃ t, exec (.jmp opd) s = .next t ∧ JumpsTo opd s t

/-- For every state and operand: JPE (0x31) goes to its operand when ACC = 0 and advances by 2 otherwise, JPN
(0x32) the other way round; nothing but PC changes, and the flags play no part. The advance of a branch
not taken is the spec's decision D7 (log 9). (Rests on 44_branching.md (JPE, JPN), 92_eei_decisions.md
D7.) -/
def Obligations.ConditionalJumpsTestAcc : Prop :=
  ∀ (s : State) (opd : Nat), EncodedAs 0x31 opd (.jpe opd) ∧ EncodedAs 0x32 opd (.jpn opd) ∧
    (s.reg .acc = 0 →
      (∃ t, exec (.jpe opd) s = .next t ∧ JumpsTo opd s t) ∧
      (∃ t, exec (.jpn opd) s = .next t ∧ PcAdvanced s t ∧ OnlyRegs [.pc] s t)) ∧
    (s.reg .acc ≠ 0 →
      (∃ t, exec (.jpe opd) s = .next t ∧ PcAdvanced s t ∧ OnlyRegs [.pc] s t) ∧
      (∃ t, exec (.jpn opd) s = .next t ∧ JumpsTo opd s t))

/-- For every state and operand: END completes with halt = 1, PC advanced (the spec's decision D8, log 9),
every other register, the flags, every cell, the devices and the setup unchanged; and, a run being in
progress (log 27), a further step stops with Halted, fetching nothing. (Rests on 44_branching.md (END),
40_cycle.md section 3, 92_eei_decisions.md D8, notes/assumptions/27.md.) -/
def Obligations.EndHaltsTheRun : Prop :=
  ∀ (s : State) (opd : Nat), EncodedAs 0x33 opd (.endRun opd) ∧
    ∃ t, exec (.endRun opd) s = .next t ∧ t.halt = true ∧ PcAdvanced s t ∧ RegsKept [.pc] s t ∧
      t.flags = s.flags ∧ MemKept s t ∧ DevicesKept s t ∧ SetupKept s t ∧
      (s.inRun = true → step t = .fault .halted)

/-- For every instruction that answers a next state: PC has advanced by 2 modulo 2^N; or the instruction is
JMP, or JPE with ACC = 0, or JPN with ACC not 0, and PC is its operand modulo 2^N; or it is an I/O
instruction with its request outstanding and PC is unchanged. Not-taken branches and END advance by the
spec's decisions D7, D8 (log 9); waiting is log 14. (Rests on 40_cycle.md section 2, 44_branching.md,
92_eei_decisions.md D7, 92_eei_decisions.md D8.) -/
def Obligations.OnlyTakenJumpsRedirectPc : Prop :=
  ∀ (s t : State) (i : Instr), exec i s = .next t →
    PcAdvanced s t ∨
    (∃ opd, (i = .jmp opd ∨ i = .jpe opd ∧ s.reg .acc = 0 ∨ i = .jpn opd ∧ s.reg .acc ≠ 0) ∧
      t.reg .pc = opd % 2 ^ s.width) ∨
    (i.group = .inputOutput ∧ t.pending ≠ none ∧ t.reg .pc = s.reg .pc)

/-- For every instruction that answers a next state: halt is 1 afterwards exactly when it was 1 before or the
instruction is END (0x33). (Rests on 10_state.md section 3.) -/
def Obligations.HaltIsSetByEndAlone : Prop :=
  ∀ (s t : State) (i : Instr), exec i s = .next t →
    (t.halt = true ↔ s.halt = true ∨ ∃ opd, i = .endRun opd)

/-- For every running state whose cells at pc decode to a JMP to pc itself, pc being an N-bit word, and every
number of loop tests: the run has no outcome and its state is the first one. (Rests on 44_branching.md
(JMP), 60_exceptions.md section 4.) -/
def Obligations.SelfJumpNeverEnds : Prop :=
  ∀ (s : State) (k : Nat), s.Running → IsWord s.width (s.reg .pc) →
    fetch s = .ok (.jmp (s.reg .pc)) → run k s = ⟨none, s⟩

/-- For every state and operand: CMP_ADDRESS (0x40), CMP_IMMEDIATE (0x41) and CMI_ADDRESS (0x42) complete; for
v = mem(opd), opd, mem(mem(opd)) the flags zero, carry, negative are 1 0 0 when ACC = v, 0 1 1 when ACC <
v, 0 0 0 when ACC > v; overflow, ACC and every other register, halt, every cell, the devices and the setup
are unchanged; PC advances. (Rules R120, R121, R122, R123.) -/
def Obligations.ComparisonsSetTheFlagRows : Prop :=
  ∀ (s : State) (opd : Nat),
    (EncodedAs 0x40 opd (.cmpAddress opd) ∧
      ∃ t, exec (.cmpAddress opd) s = .next t ∧ Compares (s.memRead opd) s t) ∧
    (EncodedAs 0x41 opd (.cmpImmediate opd) ∧
      ∃ t, exec (.cmpImmediate opd) s = .next t ∧ Compares opd s t) ∧
    (EncodedAs 0x42 opd (.cmiAddress opd) ∧
      ∃ t, exec (.cmiAddress opd) s = .next t ∧ Compares (s.memRead (s.memRead opd)) s t)

/-- For every instruction that answers a next state: outside the comparison group all four flags are
unchanged, and overflow is unchanged by every instruction. (Rests on 10_state.md section 2.) -/
def Obligations.OnlyComparisonsWriteFlags : Prop :=
  ∀ (s t : State) (i : Instr), exec i s = .next t →
    (i.group ≠ .comparison → t.flags = s.flags) ∧ t.flags.overflow = s.flags.overflow

/-- For every state, every other value of the four flags and every number of loop tests: the run from the
state with the flags replaced has the same outcome, and its final state is that of the original run but
for the flags. No instruction, loop test or decode reads a flag. Both runs have the same input words and
acknowledgments, as 40_cycle.md section 3 (determinism) asks: they are data in the state, the model's
choice (logs 14, 15). (Rests on 45_comparison.md (the flags have no reader), 10_state.md section 2,
40_cycle.md section 3, notes/assumptions/14.md, notes/assumptions/15.md.) -/
def Obligations.FlagsInfluenceNothingButFlags : Prop :=
  ∀ (s : State) (f : Flags) (k : Nat),
    (run k (s.withFlags f)).outcome = (run k s).outcome ∧
    ∃ g, (run k (s.withFlags f)).final = (run k s).final.withFlags g

/-- For every state with canonical memory, all addresses a and b and every natural number v: after writing v
at a, cell b reads v mod 2^N when b = a and as before otherwise. And every instruction other than STO that
answers a next state leaves every cell as it was. (Rule R33.) -/
def Obligations.MemWriteChangesOneCell : Prop :=
  (∀ (s : State) (a b v : Nat), Memory.wf s.mem = true →
      (s.memWrite a v).memRead b = if b = a then v % 2 ^ s.width else s.memRead b) ∧
    (∀ (s t : State) (i : Instr), (∀ opd, i ≠ .sto opd) → exec i s = .next t → MemKept s t)

/-- For every state with canonical memory: after STO, the next opcode fetched is the stored word (ACC modulo
2^N) when the next pc is the address in MAR, and otherwise what the cell held; the same for the operand
cell at the next pc + 1, an address that is not truncated (the spec's decision D10, log 11). (Rests on
20_memory.md section 3, 92_eei_decisions.md D10.) -/
def Obligations.StoreIsSeenByTheNextFetch : Prop :=
  ∀ (s t : State) (opd : Nat), Memory.wf s.mem = true → exec (.sto opd) s = .next t →
    fetchOpcode t = (if t.reg .pc = s.reg .mar then s.reg .acc % 2 ^ s.width
      else s.memRead (t.reg .pc)) ∧
    fetchOperand t = (if t.reg .pc + 1 = s.reg .mar then s.reg .acc % 2 ^ s.width
      else s.memRead (t.reg .pc + 1))

/-- For every state and every number of loop tests: every cell other than the one whose address MAR holds at
the start reads the same at the end of the run. MAR never changing is the spec's decision D9 (log 10).
(Rests on 70_reset_and_hazards.md section 4, 41_data_move.md (STO), 92_eei_decisions.md D9.) -/
def Obligations.EveryStoreOfARunHitsOneCell : Prop :=
  ∀ (s : State) (k : Nat), MemKeptExcept (s.reg .mar) s (run k s).final

/-- For all memory lists in canonical form: if every address reads the same in both, the lists are equal. The
canonical list is the model's form of the spec's total map (log 1). (Rests on 10_state.md section 3
(memory), notes/assumptions/1.md.) -/
def Obligations.EqualReadsMeanEqualMemories : Prop :=
  ∀ m m' : Memory, Memory.wf m = true → Memory.wf m' = true →
    (∀ a, readCell m a = readCell m' a) → m = m'

/-- For every state, register and integer v: after the write the register reads v mod 2^N (for negative v the
spec's decision D3, log 5), which is below 2^N; every other register, the flags, halt, the memory, the
devices and the setup are unchanged. (Rests on 10_state.md section 1, 92_eei_decisions.md D3.) -/
def Obligations.RegisterWriteTruncates : Prop :=
  ∀ (s : State) (r : Reg) (v : Int),
    ((s.writeReg r v).reg r : Int) = v % ((2 ^ s.width : Nat) : Int) ∧
    IsWord s.width ((s.writeReg r v).reg r) ∧ OnlyRegs [r] s (s.writeReg r v)

/-- For every state and its next state: CIR, MAR and MDR are unchanged (the spec's decision D9, log 10), as
are the overflow flag, the width, L, both attachment bits and the bit that a run is in progress (log 27).
(Rests on 10_state.md sections 1 to 3, 92_eei_decisions.md D9.) -/
def Obligations.StepKeepsInertState : Prop :=
  ∀ s t : State, step s = .next t →
    t.reg .cir = s.reg .cir ∧ t.reg .mar = s.reg .mar ∧ t.reg .mdr = s.reg .mdr ∧
    t.flags.overflow = s.flags.overflow ∧ SetupKept s t

/-- For every state and any two operands: LDX, MOV, STO, END_NOP, IN, OUT, INC, DEC and END answer the same
with either. (Rests on 30_encoding.md section 4.) -/
def Obligations.IgnoredOperandsHaveNoEffect : Prop :=
  ∀ (s : State) (a b : Nat),
    exec (.ldx a) s = exec (.ldx b) s ∧ exec (.mov a) s = exec (.mov b) s ∧
    exec (.sto a) s = exec (.sto b) s ∧ exec (.endNop a) s = exec (.endNop b) s ∧
    exec (.input a) s = exec (.input b) s ∧ exec (.output a) s = exec (.output b) s ∧
    exec (.inc a) s = exec (.inc b) s ∧ exec (.dec a) s = exec (.dec b) s ∧
    exec (.endRun a) s = exec (.endRun b) s

/-- For every well-formed state (legal width, every register and cell an N-bit word, memory canonical, a
request outstanding only at a running IN or OUT whose device is attached and was called last): if the step
answers a next state, that state is well-formed. (Rests on 10_state.md sections 1 and 3, 42_io.md
(blocking), notes/assumptions/1.md.) -/
def Obligations.StepKeepsWellFormed : Prop :=
  ∀ s t : State, s.WellFormed → step s = .next t → t.WellFormed

/-- State.reset meets the invariant that every step keeps. (Rests on 70_reset_and_hazards.md section 1,
notes/assumptions/2.md.) -/
def Obligations.ResetIsWellFormed : Prop :=
  State.reset.WellFormed

/-- Every state construction gives is well-formed; from a well-formed state, every state that attaching an
input or output device or launching a list gives is well-formed, and so is the state after a late answer
or acknowledgment of a device, and the final state of a run of any number of loop tests. (Rests on
70_reset_and_hazards.md sections 1 and 2, notes/assumptions/16.md.) -/
def Obligations.HostOperationsKeepWellFormed : Prop :=
  (∀ (c : Configuration) (t : State), construct c = .ok t → t.WellFormed) ∧
    (∀ s t : State, s.WellFormed →
      (∀ answers, attachInput answers s = .ok t → t.WellFormed) ∧
      (∀ acks, attachOutput acks s = .ok t → t.WellFormed) ∧
      (∀ list, launch list s = .ok t → t.WellFormed) ∧
      (∀ w, (deliverAnswer w s).WellFormed) ∧ (deliverAck s).WellFormed ∧
      (∀ k, (run k s).final.WellFormed))

/-- For every state and reason: the step stops with that reason if and only if: noRun and no run is in
progress (log 27); or, in a run, Halted and halt = 1; or Exhausted, halt = 0 and pc >= 2L (the spec's
decision D6, log 8); or, the state running: InvalidOpcodeError of the opcode cell, which is in no row
(0x100 and above by D17, log 17); or NotImplemented of the opcode cell, 0x24 or 0x25 (D4, log 6); or
MissingDeviceError, the opcode 0x10 and no input device attached. (Rests on 60_exceptions.md sections 1
and 2, 40_cycle.md sections 2 and 3, 92_eei_decisions.md D4, 92_eei_decisions.md D6, 92_eei_decisions.md
D17, notes/assumptions/27.md.) -/
def Obligations.StepStopsExactlyWhenTheRulesSay : Prop :=
  ∀ (s : State) (f : Fault), step s = .fault f ↔
    (f = .noRun ∧ s.inRun = false) ∨
    (f = .halted ∧ s.inRun = true ∧ s.halt = true) ∨
    (f = .exhausted ∧ s.inRun = true ∧ s.halt = false ∧ 2 * s.listLen ≤ s.reg .pc) ∨
    (s.Running ∧
      (f = .fatal (.invalidOpcodeError (fetchOpcode s)) ∧ InvalidOpcode (fetchOpcode s) ∨
       f = .fatal (.notImplemented (fetchOpcode s)) ∧ (fetchOpcode s = 0x24 ∨ fetchOpcode s = 0x25) ∨
       f = .fatal .missingDeviceError ∧ fetchOpcode s = 0x10 ∧ s.inAttached = false))

/-- For every state and every reason of refusal, the step is not refused: every instruction of the table has
its meaning. (Rests on 40_cycle.md section 2, 30_encoding.md section 4.) -/
def Obligations.NoStepIsRefused : Prop :=
  ∀ (s : State) (r : Refusal), step s ≠ .refused r

/-- For every state and number k of loop tests: a run with no outcome leaves the bit that a run is in progress
as it was; a run with outcome f reached, in fewer than k steps and with no outcome before, a state u whose
step stops with f, and its final state is u with no run in progress (log 27). In u halt is 1 for Halted;
halt is 0 and pc >= 2L for Exhausted; and for Fatal u is running, so the offending instruction has changed
nothing and pc addresses it. The loop test and the fatal no-change of NotImplemented and
MissingDeviceError are the spec's decisions D6, D14 (logs 8, 13). (Rests on 40_cycle.md section 3,
60_exceptions.md section 2, 92_eei_decisions.md D6, 92_eei_decisions.md D14, notes/assumptions/27.md.) -/
def Obligations.RunOutcomeDescribesItsFinalState : Prop :=
  ∀ (s : State) (k : Nat),
    ((run k s).outcome = none → (run k s).final.inRun = s.inRun) ∧
    (∀ f, (run k s).outcome = some f →
      ∃ j u, j < k ∧ run j s = ⟨none, u⟩ ∧ step u = .fault f ∧ (run k s).final = u.endRun ∧
        (f = .noRun ↔ u.inRun = false) ∧ (f = .halted → u.halt = true) ∧
        (f = .exhausted → u.halt = false ∧ 2 * u.listLen ≤ u.reg .pc) ∧
        (∀ c, f = .fatal c → u.Running))

/-- For every state s and all numbers of loop tests m and n: if the step at s answers t, a run of n + 1 tests
from s is a run of n tests from t; if the step at s stops with f, that run has outcome f and the final
state s with no run in progress (log 27); a run of m tests without an outcome is continued by a run from
its state; and a run of m tests with an outcome stays as it ended, however many more tests are asked for.
(Rests on 40_cycle.md sections 2 and 3, notes/assumptions/27.md.) -/
def Obligations.RunsCompose : Prop :=
  ∀ (s : State) (m n : Nat),
    (∀ t, step s = .next t → run (n + 1) s = run n t) ∧
    (∀ f, step s = .fault f → run (n + 1) s = ⟨some f, s.endRun⟩) ∧
    ((run m s).outcome = none → run (m + n) s = run n (run m s).final) ∧
    ((run m s).outcome ≠ none → run (m + n) s = run m s)

/-- For every well-formed state with 2L of at least 2^N and every number of loop tests: the outcome is not
Exhausted, since PC is an N-bit register and wraps. The case 2L = 2^N, in which no list is too long, is
included and follows from the loop test pc < 2L, the spec's decision D6 (log 8). (Rests on
70_reset_and_hazards.md section 5, 40_cycle.md section 2, 92_eei_decisions.md D6.) -/
def Obligations.LongListsNeverExhaust : Prop :=
  ∀ (s : State) (k : Nat), s.WellFormed → 2 ^ s.width ≤ 2 * s.listLen →
    (run k s).outcome ≠ some .exhausted

/-- In State.reset every register is 0 (the spec's decision D1, log 3), the four flags and halt are 0 (D2, log
4), every cell reads 0, L is 0, no device is attached, no request is outstanding and no run is in progress
(the model's own field, log 27). (Rests on 70_reset_and_hazards.md section 1, 92_eei_decisions.md D1,
92_eei_decisions.md D2.) -/
def Obligations.ResetHoldsTheConstructionValues : Prop :=
  (∀ r, State.reset.reg r = 0) ∧
    State.reset.flags = ⟨false, false, false, false⟩ ∧ State.reset.halt = false ∧
    (∀ a, State.reset.memRead a = 0) ∧ State.reset.listLen = 0 ∧
    State.reset.inAttached = false ∧ State.reset.outAttached = false ∧ State.reset.pending = none ∧
    State.reset.inRun = false

/-- For every configuration: with a width below 8 construction is refused with ConfigurationError and there is
no instance; with a width of 8 or more it gives an instance of that width. (Rule R131.) -/
def Obligations.ConstructionRefusesNarrowWidths : Prop :=
  ∀ c : Configuration,
    (c.width < 8 → construct c = .error .configurationError) ∧
    (8 ≤ c.width → ∃ s, construct c = .ok s ∧ s.width = c.width)

/-- For every configuration of width 8 or more: each register holds its INIT_REG value (as an N-bit word; log
26), flags and halt are 0, every cell reads 0, nothing is loaded, attached or outstanding and no run is in
progress; and VERBOSE makes no difference. INIT_REG and the zeros of flags and halt are the spec's
decisions D1, D2 (logs 3, 4). (Rests on 10_state.md section 4, 70_reset_and_hazards.md section 1,
92_eei_decisions.md D1, 92_eei_decisions.md D2.) -/
def Obligations.ConstructionHoldsInitReg : Prop :=
  ∀ (c : Configuration) (verbose : Bool), 8 ≤ c.width →
    construct { c with verbose := verbose } = construct c ∧
    ∃ s, construct c = .ok s ∧ (∀ r, s.reg r = getReg c.initReg r % 2 ^ c.width) ∧
      s.flags = ⟨false, false, false, false⟩ ∧ s.halt = false ∧ (∀ a, s.memRead a = 0) ∧
      s.listLen = 0 ∧ s.inAttached = false ∧ s.outAttached = false ∧ s.pending = none ∧
      s.inRun = false

/-- For every state with canonical memory and no run in progress (log 27) and every list of pairs with opcodes
in 0..255 and operands not negative: the launch succeeds; cells 2i and 2i+1 hold the opcode and operand of
pair i modulo 2^N, every cell from 2L up is as before, L is the length, pc is 0, halt is 0 (the spec's
decision D13, log 12), a run is in progress, and the other registers, the flags, the width, the
attachments and the devices are kept. That an operand of 2^N or more launches and is stored truncated is
the spec's decision D22 (log 18), wider than the wire form's own range. (Rests on 40_cycle.md section 1,
70_reset_and_hazards.md section 2, 92_eei_decisions.md D13, 92_eei_decisions.md D22,
notes/assumptions/27.md.) -/
def Obligations.LaunchLoadsTheList : Prop :=
  ∀ (s : State) (list : List WirePair), s.inRun = false → Memory.wf s.mem = true →
    wireListWellFormed list = true →
    ∃ t, launch list s = .ok t ∧
      (∀ (i : Nat) (p : WirePair), list[i]? = some p →
        (t.memRead (2 * i) : Int) = p.opcode % ((2 ^ s.width : Nat) : Int) ∧
        (t.memRead (2 * i + 1) : Int) = p.operand % ((2 ^ s.width : Nat) : Int)) ∧
      (∀ a, 2 * list.length ≤ a → t.memRead a = s.memRead a) ∧
      t.listLen = list.length ∧ t.reg .pc = 0 ∧ t.halt = false ∧ t.inRun = true ∧ RegsKept [.pc] s t ∧
      t.flags = s.flags ∧ t.width = s.width ∧ t.inAttached = s.inAttached ∧
      t.outAttached = s.outAttached ∧ DevicesKept s t

/-- For every state with no run in progress (log 27) and every list: the launch is refused as outside the wire
form if and only if some pair has a negative opcode, an opcode above 255 or a negative operand; an operand
of 2^N or more is no reason. This is the spec's decision D22 (log 18). (Rests on 30_encoding.md section 2,
92_eei_decisions.md D22.) -/
def Obligations.LaunchRefusesListsOutsideTheWireForm : Prop :=
  ∀ (s : State) (list : List WirePair), s.inRun = false →
    (launch list s = .error .listOutsideWireForm ↔
      ∃ p ∈ list, p.opcode < 0 ∨ 255 < p.opcode ∨ p.operand < 0)

/-- For every state with no run in progress (log 27): attaching an input device gives a state with IN_ATTACHED
set and the new device's answers; attaching an output device one with OUT_ATTACHED set and the new
device's acknowledgments; registers, flags, halt, every cell, the rest of the setup and of the devices are
unchanged. Replacement is the spec's decision D15 (log 16). (Rests on 70_reset_and_hazards.md section 2,
92_eei_decisions.md D15.) -/
def Obligations.AttachmentReplacesTheDevice : Prop :=
  ∀ (s : State) (answers : List Int) (acks : Nat), s.inRun = false →
    (∃ t, attachInput answers s = .ok t ∧ t.inAttached = true ∧ t.answers = answers ∧
      t.outAttached = s.outAttached ∧ t.acks = s.acks ∧ t.events = s.events ∧ t.pending = s.pending ∧ t.inRun = false ∧
      t.width = s.width ∧ t.listLen = s.listLen ∧ RegsKept [] s t ∧ t.flags = s.flags ∧
      t.halt = s.halt ∧ MemKept s t) ∧
    (∃ t, attachOutput acks s = .ok t ∧ t.outAttached = true ∧ t.acks = acks ∧
      t.inAttached = s.inAttached ∧ t.answers = s.answers ∧ t.events = s.events ∧ t.pending = s.pending ∧ t.inRun = false ∧
      t.width = s.width ∧ t.listLen = s.listLen ∧ RegsKept [] s t ∧ t.flags = s.flags ∧
      t.halt = s.halt ∧ MemKept s t)

/-- For every operand token: it has a value prefix exactly when its first character is #, & or B; with one,
ADD, SUB, CMP become ADD_IMMEDIATE, SUB_IMMEDIATE, CMP_IMMEDIATE, and without one the _ADDRESS forms;
every other mnemonic is unchanged; and CMI alone is unknown and gets opcode 0xFF (an inference of the
spec's from the unknown-mnemonic rule). (Rests on 30_encoding.md section 5.) -/
def Obligations.AbbreviatedMnemonicsFollowTheOperandPrefix : Prop :=
  ∀ operand : Text,
    (hasValuePrefix operand = true ↔
      operand.head? = some '#' ∨ operand.head? = some '&' ∨ operand.head? = some 'B') ∧
    (hasValuePrefix operand = true →
      resolveMnemonic "ADD".toList operand = "ADD_IMMEDIATE".toList ∧
      resolveMnemonic "SUB".toList operand = "SUB_IMMEDIATE".toList ∧
      resolveMnemonic "CMP".toList operand = "CMP_IMMEDIATE".toList) ∧
    (hasValuePrefix operand = false →
      resolveMnemonic "ADD".toList operand = "ADD_ADDRESS".toList ∧
      resolveMnemonic "SUB".toList operand = "SUB_ADDRESS".toList ∧
      resolveMnemonic "CMP".toList operand = "CMP_ADDRESS".toList) ∧
    (∀ m : Text, m ≠ "ADD".toList → m ≠ "SUB".toList → m ≠ "CMP".toList →
      resolveMnemonic m operand = m) ∧
    opcodeNamed "CMI".toList = 0xFF

/-- Each of the 22 names of the mnemonic table has the opcode of its row, written out (END the halting 0x33 by
the spec's decision D5, log 23); every other name, END_NOP among them, has 0xFF, which decodes to no
instruction; names are compared exactly as spelled (D18, log 23); and every pair the linker makes carries
the opcode of its instruction's name. (Rests on 30_encoding.md sections 4 and 5, 92_eei_decisions.md D5,
92_eei_decisions.md D18.) -/
def Obligations.MnemonicsAssembleToTableOpcodes : Prop :=
  opcodeNamed "LDM".toList = 0x00 ∧
    opcodeNamed "LDD".toList = 0x01 ∧
    opcodeNamed "LDI".toList = 0x02 ∧
    opcodeNamed "LDX".toList = 0x03 ∧
    opcodeNamed "LDR".toList = 0x04 ∧
    opcodeNamed "MOV".toList = 0x05 ∧
    opcodeNamed "STO".toList = 0x06 ∧
    opcodeNamed "IN".toList = 0x10 ∧
    opcodeNamed "OUT".toList = 0x11 ∧
    opcodeNamed "ADD_ADDRESS".toList = 0x20 ∧
    opcodeNamed "ADD_IMMEDIATE".toList = 0x21 ∧
    opcodeNamed "SUB_ADDRESS".toList = 0x22 ∧
    opcodeNamed "SUB_IMMEDIATE".toList = 0x23 ∧
    opcodeNamed "INC".toList = 0x24 ∧
    opcodeNamed "DEC".toList = 0x25 ∧
    opcodeNamed "JMP".toList = 0x30 ∧
    opcodeNamed "JPE".toList = 0x31 ∧
    opcodeNamed "JPN".toList = 0x32 ∧
    opcodeNamed "END".toList = 0x33 ∧
    opcodeNamed "CMP_ADDRESS".toList = 0x40 ∧
    opcodeNamed "CMP_IMMEDIATE".toList = 0x41 ∧
    opcodeNamed "CMI_ADDRESS".toList = 0x42 ∧
    (∀ name : Text, name ∉ (["LDM", "LDD", "LDI", "LDX", "LDR", "MOV", "STO", "IN", "OUT", "ADD_ADDRESS",
        "ADD_IMMEDIATE", "SUB_ADDRESS", "SUB_IMMEDIATE", "INC", "DEC", "JMP", "JPE", "JPN", "END",
        "CMP_ADDRESS", "CMP_IMMEDIATE", "CMI_ADDRESS"].map String.toList) →
      opcodeNamed name = 0xFF) ∧
    (∀ opd, decode 0xFF opd = .error (.invalidOpcode 0xFF)) ∧
    (∀ params labels im p, link params labels im = .ok p → p.opcode = opcodeNamed im.opcodeName)

/-- For assembler parameters whose register indices are not negative and every program text: if it assembles,
the resulting list is in the wire form. (Rests on 30_encoding.md sections 2 and 5,
notes/assumptions/18.md.) -/
def Obligations.AssembledListsAreInTheWireForm : Prop :=
  ∀ (params : AssemblerParams) (text : Text) (list : List WirePair),
    (∀ r, 0 ≤ params.regIdx r) → assemble params text = .ok list → wireListWellFormed list = true

/-- For every program whose lines before a label line each have a first token: the label table binds the
label's name to the number of instructions those lines produce, which is the index of the labelled
instruction; label-only lines count none, labelled instruction lines count one (the spec's decisions D19,
D23, log 23). When no earlier line binds the name, looking the name up gives that index, whatever later
lines bind (the first binding wins, D18, log 23), and linking an instruction whose operand is the name
gives LABEL_SCALE times it (D12, log 23). (Rests on 30_encoding.md section 5, 92_eei_decisions.md D12,
92_eei_decisions.md D18, 92_eei_decisions.md D19, 92_eei_decisions.md D23.) -/
def Obligations.LabelIsTheIndexOfItsInstruction : Prop :=
  ∀ (params : AssemblerParams) (before : List Fields) (f : Fields) (after : List Fields),
    isLabel f.first = true → (∀ g ∈ before, g.first ≠ []) →
    (labelName f.first, (intermediates params before).length) ∈ labelTable 0 (before ++ f :: after) ∧
    ((∀ g ∈ before, isLabel g.first = true → labelName g.first ≠ labelName f.first) →
      (labelTable 0 (before ++ f :: after)).lookup (labelName f.first) =
        some (intermediates params before).length ∧
      ∀ im : Intermediate, im.operand = .symbol (labelName f.first) →
        link params (labelTable 0 (before ++ f :: after)) im =
          .ok ⟨opcodeNamed im.opcodeName,
            ((params.labelScale.factor * (intermediates params before).length : Nat) : Int)⟩)

/-- For every state with a run in progress (log 27) and every number of further loop tests: if halt is 1 the
run is Halted; if halt is 0 and pc >= 2L (the spec's decision D6, log 8) it is Exhausted; if it is running
and the opcode cell is in no row (0x100 and above by D17, log 17) it is Fatal with InvalidOpcodeError of
that value; with 0x24 or 0x25 Fatal with NotImplemented of that value (D4, log 6); with 0x10 and no input
device Fatal with MissingDeviceError; in each case the final state is the state itself, with no run in
progress (for the last two conditions D14, log 13). If it is running and the fetched instruction answers
t, the run goes on from t. (Rests on 40_cycle.md sections 2 and 3, 60_exceptions.md sections 1 and 2,
92_eei_decisions.md D4, 92_eei_decisions.md D6, 92_eei_decisions.md D14, 92_eei_decisions.md D17,
notes/assumptions/27.md.) -/
def Obligations.RunsEndAsTheOutcomeTableSays : Prop :=
  ∀ (s : State) (k : Nat), s.inRun = true →
    (s.halt = true → run (k + 1) s = ⟨some .halted, s.endRun⟩) ∧
    (s.halt = false → 2 * s.listLen ≤ s.reg .pc → run (k + 1) s = ⟨some .exhausted, s.endRun⟩) ∧
    (s.Running →
      (InvalidOpcode (fetchOpcode s) →
        run (k + 1) s = ⟨some (.fatal (.invalidOpcodeError (fetchOpcode s))), s.endRun⟩) ∧
      (fetchOpcode s = 0x24 ∨ fetchOpcode s = 0x25 →
        run (k + 1) s = ⟨some (.fatal (.notImplemented (fetchOpcode s))), s.endRun⟩) ∧
      (fetchOpcode s = 0x10 → s.inAttached = false →
        run (k + 1) s = ⟨some (.fatal .missingDeviceError), s.endRun⟩) ∧
      (∀ i t, fetch s = .ok i → exec i s = .next t → run (k + 1) s = run k t))

/-- For every state: while a run is in progress, attaching either device, launching and load-and-run are all
refused with runInProgress, whatever the list or the device; a step that answers a next state was made in
a run, which is still in progress; and when a run of any number of loop tests has an outcome, no run is in
progress in its final state, no further step is made there, and either attachment and the launch of any
list with opcodes in 0..255 and operands not negative (the spec's decision D22, log 18) succeed. The run
in progress as a bit of the state is the model's (log 27). (Rests on 10_state.md section 3,
70_reset_and_hazards.md section 2, 92_eei_decisions.md D15, 92_eei_decisions.md D22,
notes/assumptions/27.md.) -/
def Obligations.HostActsOnlyBetweenRuns : Prop :=
  ∀ s : State,
    (s.inRun = true →
      (∀ answers, attachInput answers s = .error .runInProgress) ∧
      (∀ acks, attachOutput acks s = .error .runInProgress) ∧
      (∀ list, launch list s = .error .runInProgress) ∧
      (∀ tests list, execute tests list s = .error .runInProgress)) ∧
    (∀ t, step s = .next t → s.inRun = true ∧ t.inRun = true) ∧
    (∀ k f, (run k s).outcome = some f →
      (run k s).final.inRun = false ∧ step (run k s).final = .fault .noRun ∧
      (∀ answers, ∃ t, attachInput answers (run k s).final = .ok t) ∧
      (∀ acks, ∃ t, attachOutput acks (run k s).final = .ok t) ∧
      (∀ list, wireListWellFormed list = true → ∃ t, launch list (run k s).final = .ok t))
end

