-- ==== Sys2Proof/Laws/Memory.lean ====
section
/-! SUPPORT. The laws of truncation and of the memory list. -/

namespace Sys2Proof.Machine

/-! ### Truncation -/

/-- `trunc_N` of a natural number keeps its low `N` bits (R11). -/
@[simp] theorem trunc_natCast (width n : Nat) : trunc width (n : Int) = n % 2 ^ width := by
  unfold trunc
  rw [← Int.natCast_emod, Int.toNat_natCast]

/-- `trunc_N(v)` is `v mod 2^N` for every integer (R6). -/
theorem trunc_cast (width : Nat) (v : Int) : (trunc width v : Int) = v % ((2 ^ width : Nat) : Int) := by
  have hpos : (0 : Int) < ((2 ^ width : Nat) : Int) := by exact_mod_cast Nat.two_pow_pos width
  exact Int.toNat_of_nonneg (Int.emod_nonneg v hpos.ne')

/-- A truncated value fits the width. -/
theorem trunc_lt (width : Nat) (v : Int) : trunc width v < 2 ^ width := by
  have hpos : (0 : Int) < ((2 ^ width : Nat) : Int) := by exact_mod_cast Nat.two_pow_pos width
  have hlt := Int.emod_lt_of_pos v hpos
  rw [← trunc_cast] at hlt
  exact_mod_cast hlt

/-- A value that fits is stored unchanged (R11). -/
theorem trunc_of_lt {width n : Nat} (h : n < 2 ^ width) : trunc width (n : Int) = n := by
  rw [trunc_natCast, Nat.mod_eq_of_lt h]

/-- The advance, on natural numbers. -/
@[simp] theorem trunc_add_two (width n : Nat) : trunc width ((n : Int) + 2) = (n + 2) % 2 ^ width :=
  trunc_natCast width (n + 2)

@[simp] theorem trunc_add (width m n : Nat) : trunc width ((m : Int) + (n : Int)) = (m + n) % 2 ^ width := by
  rw [← Int.natCast_add, trunc_natCast]

@[simp] theorem trunc_zero (width : Nat) : trunc width 0 = 0 := by
  simp [trunc]

/-! ### The memory list -/

theorem wfFrom_mono {m : Memory} {lo lo' : Nat} (h : lo' ≤ lo) (hm : Memory.wfFrom lo m = true) :
    Memory.wfFrom lo' m = true := by
  cases m with
  | nil => rfl
  | cons c m =>
    obtain ⟨a, v⟩ := c
    simp only [Memory.wfFrom, Bool.and_eq_true, decide_eq_true_eq] at hm ⊢
    exact ⟨⟨h.trans hm.1.1, hm.1.2⟩, hm.2⟩

/-- Below its first address a well-formed memory reads 0. -/
theorem readCell_below {m : Memory} {lo a : Nat} (hm : Memory.wfFrom lo m = true) (ha : a < lo) :
    readCell m a = 0 := by
  induction m generalizing lo with
  | nil => rfl
  | cons c m ih =>
    obtain ⟨b, v⟩ := c
    simp only [Memory.wfFrom, Bool.and_eq_true, decide_eq_true_eq] at hm
    have hne : a ≠ b := by omega
    simp only [readCell, hne, if_false]
    exact ih hm.2 (by omega)

/-- A write leaves every other cell as it was (R33); no form is needed. -/
theorem readCell_writeCell_ne (m : Memory) {a b : Nat} (v : Nat) (h : b ≠ a) :
    readCell (writeCell m a v) b = readCell m b := by
  induction m with
  | nil => by_cases hv : v = 0 <;> simp [writeCell, readCell, hv, h]
  | cons c m ih =>
    obtain ⟨d, w⟩ := c
    unfold writeCell
    split
    · split <;> simp [readCell, h]
    · split
      · rename_i had; subst had
        split <;> simp [readCell, h]
      · simp [readCell, ih]

/-- A read after a write to the same cell gives the word written (R32), in a well-formed memory. -/
theorem readCell_writeCell_self {m : Memory} {lo : Nat} (a : Nat) (v : Nat)
    (hm : Memory.wfFrom lo m = true) : readCell (writeCell m a v) a = v := by
  induction m generalizing lo with
  | nil => by_cases hv : v = 0 <;> simp [writeCell, readCell, hv]
  | cons c m ih =>
    obtain ⟨d, w⟩ := c
    simp only [Memory.wfFrom, Bool.and_eq_true, decide_eq_true_eq] at hm
    unfold writeCell
    split
    · rename_i hlt
      split
      · rename_i hv; subst hv
        have hne : a ≠ d := by omega
        simp only [readCell, hne, if_false]
        exact readCell_below hm.2 (by omega)
      · simp [readCell]
    · split
      · rename_i had; subst had
        split
        · rename_i hv; subst hv
          exact readCell_below hm.2 (by omega)
        · simp [readCell]
      · rename_i hne
        simp only [readCell, hne, if_false]
        exact ih hm.2

theorem wfFrom_writeCell {m : Memory} {lo : Nat} (a : Nat) (v : Nat) (ha : lo ≤ a)
    (hm : Memory.wfFrom lo m = true) : Memory.wfFrom lo (writeCell m a v) = true := by
  induction m generalizing lo with
  | nil => by_cases hv : v = 0 <;> simp [writeCell, Memory.wfFrom, hv, ha]
  | cons c m ih =>
    obtain ⟨d, w⟩ := c
    have hm' := hm
    simp only [Memory.wfFrom, Bool.and_eq_true, decide_eq_true_eq] at hm
    unfold writeCell
    split
    · rename_i hlt
      split
      · exact hm'
      · rename_i hv
        simp only [Memory.wfFrom, Bool.and_eq_true, decide_eq_true_eq]
        exact ⟨⟨ha, hv⟩, ⟨by omega, hm.1.2⟩, hm.2⟩
    · split
      · split
        · exact wfFrom_mono (by omega) hm.2
        · rename_i hv
          simp only [Memory.wfFrom, Bool.and_eq_true, decide_eq_true_eq]
          exact ⟨⟨hm.1.1, hv⟩, hm.2⟩
      · simp only [Memory.wfFrom, Bool.and_eq_true, decide_eq_true_eq]
        exact ⟨hm.1, ih (by omega) hm.2⟩

/-- Every memory operation keeps the canonical form: `writeCell` is the only one that makes a memory. -/
theorem wf_writeCell {m : Memory} (a : Nat) (v : Nat) (hm : Memory.wf m = true) :
    Memory.wf (writeCell m a v) = true :=
  wfFrom_writeCell a v (Nat.zero_le a) hm

/-- The memory of `State.reset` has the canonical form. -/
theorem wf_reset_mem : Memory.wf State.reset.mem = true := rfl

/-- A write of a word that fits keeps every listed word within the width. -/
theorem fits_writeCell {m : Memory} {width : Nat} (a : Nat) {v : Nat} (hv : v < 2 ^ width)
    (hm : Memory.fits width m = true) : Memory.fits width (writeCell m a v) = true := by
  induction m with
  | nil => by_cases h0 : v = 0 <;> simp [writeCell, Memory.fits, h0, hv]
  | cons c m ih =>
    obtain ⟨d, w⟩ := c
    simp only [Memory.fits, List.all_cons, Bool.and_eq_true, decide_eq_true_eq] at hm ih
    unfold writeCell
    split
    · split
      · simp only [Memory.fits, List.all_cons, Bool.and_eq_true, decide_eq_true_eq]
        exact hm
      · simp only [Memory.fits, List.all_cons, Bool.and_eq_true, decide_eq_true_eq]
        exact ⟨hv, hm⟩
    · split
      · split
        · exact hm.2
        · simp only [Memory.fits, List.all_cons, Bool.and_eq_true, decide_eq_true_eq]
          exact ⟨hv, hm.2⟩
      · simp only [Memory.fits, List.all_cons, Bool.and_eq_true, decide_eq_true_eq]
        exact ⟨hm.1, ih hm.2⟩

/-- A cell of a memory that fits holds an `N`-bit word. -/
theorem readCell_lt {m : Memory} {width : Nat} (a : Nat) (hm : Memory.fits width m = true) :
    readCell m a < 2 ^ width := by
  induction m with
  | nil => exact Nat.two_pow_pos width
  | cons c m ih =>
    obtain ⟨d, w⟩ := c
    simp only [Memory.fits, List.all_cons, Bool.and_eq_true, decide_eq_true_eq] at hm ih
    unfold readCell
    split
    · exact hm.1
    · exact ih hm.2

/-- `MemWrite` at the level of the state: the written cell and every other one (R33). -/
theorem State.memRead_memWrite {s : State} (a b : Nat) (v : Int) (hm : Memory.wf s.mem = true) :
    (s.memWrite a v).memRead b = if b = a then trunc s.width v else s.memRead b := by
  split
  · rename_i h; subst h
    exact readCell_writeCell_self _ _ hm
  · rename_i h
    exact readCell_writeCell_ne _ _ h

end Sys2Proof.Machine
end

