-- ==== Sys2Proof/Laws/State.lean ====
section
/-! SUPPORT. One lemma per field per state update of Machine/Ops.lean and Machine/Flags.lean, true by `rfl`
(`issue` by its one `if`), so that no later proof unfolds a record update; and what a register or a cell
reads after each. -/

namespace Sys2Proof.Machine

variable (s : State)

/-! ### `writeReg` -/

@[simp] theorem State.writeReg_width (r : Reg) (v : Int) : (s.writeReg r v).width = s.width := rfl
@[simp] theorem State.writeReg_regs (r : Reg) (v : Int) : (s.writeReg r v).regs = setReg s.regs r (trunc s.width v) := rfl
@[simp] theorem State.writeReg_flags (r : Reg) (v : Int) : (s.writeReg r v).flags = s.flags := rfl
@[simp] theorem State.writeReg_halt (r : Reg) (v : Int) : (s.writeReg r v).halt = s.halt := rfl
@[simp] theorem State.writeReg_mem (r : Reg) (v : Int) : (s.writeReg r v).mem = s.mem := rfl
@[simp] theorem State.writeReg_listLen (r : Reg) (v : Int) : (s.writeReg r v).listLen = s.listLen := rfl
@[simp] theorem State.writeReg_inAttached (r : Reg) (v : Int) : (s.writeReg r v).inAttached = s.inAttached := rfl
@[simp] theorem State.writeReg_outAttached (r : Reg) (v : Int) : (s.writeReg r v).outAttached = s.outAttached := rfl
@[simp] theorem State.writeReg_inRun (r : Reg) (v : Int) : (s.writeReg r v).inRun = s.inRun := rfl
@[simp] theorem State.writeReg_pending (r : Reg) (v : Int) : (s.writeReg r v).pending = s.pending := rfl
@[simp] theorem State.writeReg_answers (r : Reg) (v : Int) : (s.writeReg r v).answers = s.answers := rfl
@[simp] theorem State.writeReg_acks (r : Reg) (v : Int) : (s.writeReg r v).acks = s.acks := rfl
@[simp] theorem State.writeReg_events (r : Reg) (v : Int) : (s.writeReg r v).events = s.events := rfl

/-! ### `memWrite` -/

@[simp] theorem State.memWrite_width (a : Nat) (v : Int) : (s.memWrite a v).width = s.width := rfl
@[simp] theorem State.memWrite_regs (a : Nat) (v : Int) : (s.memWrite a v).regs = s.regs := rfl
@[simp] theorem State.memWrite_flags (a : Nat) (v : Int) : (s.memWrite a v).flags = s.flags := rfl
@[simp] theorem State.memWrite_halt (a : Nat) (v : Int) : (s.memWrite a v).halt = s.halt := rfl
@[simp] theorem State.memWrite_mem (a : Nat) (v : Int) : (s.memWrite a v).mem = writeCell s.mem a (trunc s.width v) := rfl
@[simp] theorem State.memWrite_listLen (a : Nat) (v : Int) : (s.memWrite a v).listLen = s.listLen := rfl
@[simp] theorem State.memWrite_inAttached (a : Nat) (v : Int) : (s.memWrite a v).inAttached = s.inAttached := rfl
@[simp] theorem State.memWrite_outAttached (a : Nat) (v : Int) : (s.memWrite a v).outAttached = s.outAttached := rfl
@[simp] theorem State.memWrite_inRun (a : Nat) (v : Int) : (s.memWrite a v).inRun = s.inRun := rfl
@[simp] theorem State.memWrite_pending (a : Nat) (v : Int) : (s.memWrite a v).pending = s.pending := rfl
@[simp] theorem State.memWrite_answers (a : Nat) (v : Int) : (s.memWrite a v).answers = s.answers := rfl
@[simp] theorem State.memWrite_acks (a : Nat) (v : Int) : (s.memWrite a v).acks = s.acks := rfl
@[simp] theorem State.memWrite_events (a : Nat) (v : Int) : (s.memWrite a v).events = s.events := rfl

/-! ### `writeFlags` -/

@[simp] theorem State.writeFlags_width (f : Flags) : (s.writeFlags f).width = s.width := rfl
@[simp] theorem State.writeFlags_regs (f : Flags) : (s.writeFlags f).regs = s.regs := rfl
@[simp] theorem State.writeFlags_flags (f : Flags) : (s.writeFlags f).flags = f := rfl
@[simp] theorem State.writeFlags_halt (f : Flags) : (s.writeFlags f).halt = s.halt := rfl
@[simp] theorem State.writeFlags_mem (f : Flags) : (s.writeFlags f).mem = s.mem := rfl
@[simp] theorem State.writeFlags_listLen (f : Flags) : (s.writeFlags f).listLen = s.listLen := rfl
@[simp] theorem State.writeFlags_inAttached (f : Flags) : (s.writeFlags f).inAttached = s.inAttached := rfl
@[simp] theorem State.writeFlags_outAttached (f : Flags) : (s.writeFlags f).outAttached = s.outAttached := rfl
@[simp] theorem State.writeFlags_inRun (f : Flags) : (s.writeFlags f).inRun = s.inRun := rfl
@[simp] theorem State.writeFlags_pending (f : Flags) : (s.writeFlags f).pending = s.pending := rfl
@[simp] theorem State.writeFlags_answers (f : Flags) : (s.writeFlags f).answers = s.answers := rfl
@[simp] theorem State.writeFlags_acks (f : Flags) : (s.writeFlags f).acks = s.acks := rfl
@[simp] theorem State.writeFlags_events (f : Flags) : (s.writeFlags f).events = s.events := rfl

/-! ### `setHalt` -/

@[simp] theorem State.setHalt_width : s.setHalt.width = s.width := rfl
@[simp] theorem State.setHalt_regs : s.setHalt.regs = s.regs := rfl
@[simp] theorem State.setHalt_flags : s.setHalt.flags = s.flags := rfl
@[simp] theorem State.setHalt_halt : s.setHalt.halt = true := rfl
@[simp] theorem State.setHalt_mem : s.setHalt.mem = s.mem := rfl
@[simp] theorem State.setHalt_listLen : s.setHalt.listLen = s.listLen := rfl
@[simp] theorem State.setHalt_inAttached : s.setHalt.inAttached = s.inAttached := rfl
@[simp] theorem State.setHalt_outAttached : s.setHalt.outAttached = s.outAttached := rfl
@[simp] theorem State.setHalt_inRun : s.setHalt.inRun = s.inRun := rfl
@[simp] theorem State.setHalt_pending : s.setHalt.pending = s.pending := rfl
@[simp] theorem State.setHalt_answers : s.setHalt.answers = s.answers := rfl
@[simp] theorem State.setHalt_acks : s.setHalt.acks = s.acks := rfl
@[simp] theorem State.setHalt_events : s.setHalt.events = s.events := rfl

/-! ### `answered` -/

@[simp] theorem State.answered_width (rest : List Int) : (s.answered rest).width = s.width := rfl
@[simp] theorem State.answered_regs (rest : List Int) : (s.answered rest).regs = s.regs := rfl
@[simp] theorem State.answered_flags (rest : List Int) : (s.answered rest).flags = s.flags := rfl
@[simp] theorem State.answered_halt (rest : List Int) : (s.answered rest).halt = s.halt := rfl
@[simp] theorem State.answered_mem (rest : List Int) : (s.answered rest).mem = s.mem := rfl
@[simp] theorem State.answered_listLen (rest : List Int) : (s.answered rest).listLen = s.listLen := rfl
@[simp] theorem State.answered_inAttached (rest : List Int) : (s.answered rest).inAttached = s.inAttached := rfl
@[simp] theorem State.answered_outAttached (rest : List Int) : (s.answered rest).outAttached = s.outAttached := rfl
@[simp] theorem State.answered_inRun (rest : List Int) : (s.answered rest).inRun = s.inRun := rfl
@[simp] theorem State.answered_pending (rest : List Int) : (s.answered rest).pending = none := rfl
@[simp] theorem State.answered_answers (rest : List Int) : (s.answered rest).answers = rest := rfl
@[simp] theorem State.answered_acks (rest : List Int) : (s.answered rest).acks = s.acks := rfl
@[simp] theorem State.answered_events (rest : List Int) : (s.answered rest).events = s.events := rfl

/-! ### `acknowledged` -/

@[simp] theorem State.acknowledged_width (left : Nat) : (s.acknowledged left).width = s.width := rfl
@[simp] theorem State.acknowledged_regs (left : Nat) : (s.acknowledged left).regs = s.regs := rfl
@[simp] theorem State.acknowledged_flags (left : Nat) : (s.acknowledged left).flags = s.flags := rfl
@[simp] theorem State.acknowledged_halt (left : Nat) : (s.acknowledged left).halt = s.halt := rfl
@[simp] theorem State.acknowledged_mem (left : Nat) : (s.acknowledged left).mem = s.mem := rfl
@[simp] theorem State.acknowledged_listLen (left : Nat) : (s.acknowledged left).listLen = s.listLen := rfl
@[simp] theorem State.acknowledged_inAttached (left : Nat) : (s.acknowledged left).inAttached = s.inAttached := rfl
@[simp] theorem State.acknowledged_outAttached (left : Nat) : (s.acknowledged left).outAttached = s.outAttached := rfl
@[simp] theorem State.acknowledged_inRun (left : Nat) : (s.acknowledged left).inRun = s.inRun := rfl
@[simp] theorem State.acknowledged_pending (left : Nat) : (s.acknowledged left).pending = none := rfl
@[simp] theorem State.acknowledged_answers (left : Nat) : (s.acknowledged left).answers = s.answers := rfl
@[simp] theorem State.acknowledged_acks (left : Nat) : (s.acknowledged left).acks = left := rfl
@[simp] theorem State.acknowledged_events (left : Nat) : (s.acknowledged left).events = s.events := rfl

/-! ### `diagnose` -/

@[simp] theorem State.diagnose_width (w : Nat) : (s.diagnose w).width = s.width := rfl
@[simp] theorem State.diagnose_regs (w : Nat) : (s.diagnose w).regs = s.regs := rfl
@[simp] theorem State.diagnose_flags (w : Nat) : (s.diagnose w).flags = s.flags := rfl
@[simp] theorem State.diagnose_halt (w : Nat) : (s.diagnose w).halt = s.halt := rfl
@[simp] theorem State.diagnose_mem (w : Nat) : (s.diagnose w).mem = s.mem := rfl
@[simp] theorem State.diagnose_listLen (w : Nat) : (s.diagnose w).listLen = s.listLen := rfl
@[simp] theorem State.diagnose_inAttached (w : Nat) : (s.diagnose w).inAttached = s.inAttached := rfl
@[simp] theorem State.diagnose_outAttached (w : Nat) : (s.diagnose w).outAttached = s.outAttached := rfl
@[simp] theorem State.diagnose_inRun (w : Nat) : (s.diagnose w).inRun = s.inRun := rfl
@[simp] theorem State.diagnose_pending (w : Nat) : (s.diagnose w).pending = s.pending := rfl
@[simp] theorem State.diagnose_answers (w : Nat) : (s.diagnose w).answers = s.answers := rfl
@[simp] theorem State.diagnose_acks (w : Nat) : (s.diagnose w).acks = s.acks := rfl
@[simp] theorem State.diagnose_events (w : Nat) : (s.diagnose w).events = s.events ++ [.diagnostic w] := rfl

/-! ### `compare` -/

@[simp] theorem State.compare_width (v : Nat) : (s.compare v).width = s.width := rfl
@[simp] theorem State.compare_regs (v : Nat) : (s.compare v).regs = s.regs := rfl
@[simp] theorem State.compare_flags (v : Nat) : (s.compare v).flags = compareFlags (s.reg .acc) v s.flags := rfl
@[simp] theorem State.compare_halt (v : Nat) : (s.compare v).halt = s.halt := rfl
@[simp] theorem State.compare_mem (v : Nat) : (s.compare v).mem = s.mem := rfl
@[simp] theorem State.compare_listLen (v : Nat) : (s.compare v).listLen = s.listLen := rfl
@[simp] theorem State.compare_inAttached (v : Nat) : (s.compare v).inAttached = s.inAttached := rfl
@[simp] theorem State.compare_outAttached (v : Nat) : (s.compare v).outAttached = s.outAttached := rfl
@[simp] theorem State.compare_inRun (v : Nat) : (s.compare v).inRun = s.inRun := rfl
@[simp] theorem State.compare_pending (v : Nat) : (s.compare v).pending = s.pending := rfl
@[simp] theorem State.compare_answers (v : Nat) : (s.compare v).answers = s.answers := rfl
@[simp] theorem State.compare_acks (v : Nat) : (s.compare v).acks = s.acks := rfl
@[simp] theorem State.compare_events (v : Nat) : (s.compare v).events = s.events := rfl

/-! ### `advance` -/

@[simp] theorem State.advance_width : s.advance.width = s.width := rfl
@[simp] theorem State.advance_regs : s.advance.regs = setReg s.regs .pc (trunc s.width ((s.reg .pc : Int) + 2)) := rfl
@[simp] theorem State.advance_flags : s.advance.flags = s.flags := rfl
@[simp] theorem State.advance_halt : s.advance.halt = s.halt := rfl
@[simp] theorem State.advance_mem : s.advance.mem = s.mem := rfl
@[simp] theorem State.advance_listLen : s.advance.listLen = s.listLen := rfl
@[simp] theorem State.advance_inAttached : s.advance.inAttached = s.inAttached := rfl
@[simp] theorem State.advance_outAttached : s.advance.outAttached = s.outAttached := rfl
@[simp] theorem State.advance_inRun : s.advance.inRun = s.inRun := rfl
@[simp] theorem State.advance_pending : s.advance.pending = s.pending := rfl
@[simp] theorem State.advance_answers : s.advance.answers = s.answers := rfl
@[simp] theorem State.advance_acks : s.advance.acks = s.acks := rfl
@[simp] theorem State.advance_events : s.advance.events = s.events := rfl

/-! ### `endRun` -/

@[simp] theorem State.endRun_width : s.endRun.width = s.width := rfl
@[simp] theorem State.endRun_regs : s.endRun.regs = s.regs := rfl
@[simp] theorem State.endRun_flags : s.endRun.flags = s.flags := rfl
@[simp] theorem State.endRun_halt : s.endRun.halt = s.halt := rfl
@[simp] theorem State.endRun_mem : s.endRun.mem = s.mem := rfl
@[simp] theorem State.endRun_listLen : s.endRun.listLen = s.listLen := rfl
@[simp] theorem State.endRun_inAttached : s.endRun.inAttached = s.inAttached := rfl
@[simp] theorem State.endRun_outAttached : s.endRun.outAttached = s.outAttached := rfl
@[simp] theorem State.endRun_inRun : s.endRun.inRun = false := rfl
@[simp] theorem State.endRun_pending : s.endRun.pending = s.pending := rfl
@[simp] theorem State.endRun_answers : s.endRun.answers = s.answers := rfl
@[simp] theorem State.endRun_acks : s.endRun.acks = s.acks := rfl
@[simp] theorem State.endRun_events : s.endRun.events = s.events := rfl

/-! ### `issue` -/

@[simp] theorem State.issue_width (req : Request) (ev : Event) : (s.issue req ev).width = s.width := by
  unfold State.issue; split <;> rfl
@[simp] theorem State.issue_regs (req : Request) (ev : Event) : (s.issue req ev).regs = s.regs := by
  unfold State.issue; split <;> rfl
@[simp] theorem State.issue_flags (req : Request) (ev : Event) : (s.issue req ev).flags = s.flags := by
  unfold State.issue; split <;> rfl
@[simp] theorem State.issue_halt (req : Request) (ev : Event) : (s.issue req ev).halt = s.halt := by
  unfold State.issue; split <;> rfl
@[simp] theorem State.issue_mem (req : Request) (ev : Event) : (s.issue req ev).mem = s.mem := by
  unfold State.issue; split <;> rfl
@[simp] theorem State.issue_listLen (req : Request) (ev : Event) : (s.issue req ev).listLen = s.listLen := by
  unfold State.issue; split <;> rfl
@[simp] theorem State.issue_inAttached (req : Request) (ev : Event) : (s.issue req ev).inAttached = s.inAttached := by
  unfold State.issue; split <;> rfl
@[simp] theorem State.issue_outAttached (req : Request) (ev : Event) : (s.issue req ev).outAttached = s.outAttached := by
  unfold State.issue; split <;> rfl
@[simp] theorem State.issue_inRun (req : Request) (ev : Event) : (s.issue req ev).inRun = s.inRun := by
  unfold State.issue; split <;> rfl
@[simp] theorem State.issue_pending (req : Request) (ev : Event) : (s.issue req ev).pending = some req := by
  unfold State.issue; split <;> simp_all
@[simp] theorem State.issue_answers (req : Request) (ev : Event) : (s.issue req ev).answers = s.answers := by
  unfold State.issue; split <;> rfl
@[simp] theorem State.issue_acks (req : Request) (ev : Event) : (s.issue req ev).acks = s.acks := by
  unfold State.issue; split <;> rfl
@[simp] theorem State.issue_events (req : Request) (ev : Event) :
    (s.issue req ev).events = if s.pending = some req then s.events else s.events ++ [ev] := by
  unfold State.issue; split <;> rfl

/-! ### Registers after each update -/

@[simp] theorem getReg_setReg (f : RegFile) (r q : Reg) (w : Nat) :
    getReg (setReg f r w) q = if q = r then w else getReg f q := by
  cases r <;> cases q <;> rfl

/-- One register changes, to the truncated value (R11). -/
@[simp] theorem State.reg_writeReg (r q : Reg) (v : Int) :
    (s.writeReg r v).reg q = if q = r then trunc s.width v else s.reg q :=
  getReg_setReg s.regs r q _

@[simp] theorem State.reg_advance (q : Reg) :
    s.advance.reg q = if q = .pc then trunc s.width ((s.reg .pc : Int) + 2) else s.reg q :=
  s.reg_writeReg .pc q _

@[simp] theorem State.reg_memWrite (a : Nat) (v : Int) (q : Reg) : (s.memWrite a v).reg q = s.reg q := rfl
@[simp] theorem State.reg_writeFlags (f : Flags) (q : Reg) : (s.writeFlags f).reg q = s.reg q := rfl
@[simp] theorem State.reg_setHalt (q : Reg) : s.setHalt.reg q = s.reg q := rfl
@[simp] theorem State.reg_endRun (q : Reg) : s.endRun.reg q = s.reg q := rfl
@[simp] theorem State.reg_answered (rest : List Int) (q : Reg) : (s.answered rest).reg q = s.reg q := rfl
@[simp] theorem State.reg_acknowledged (left : Nat) (q : Reg) : (s.acknowledged left).reg q = s.reg q := rfl
@[simp] theorem State.reg_diagnose (w : Nat) (q : Reg) : (s.diagnose w).reg q = s.reg q := rfl
@[simp] theorem State.reg_compare (v : Nat) (q : Reg) : (s.compare v).reg q = s.reg q := rfl
@[simp] theorem State.reg_issue (req : Request) (ev : Event) (q : Reg) : (s.issue req ev).reg q = s.reg q := by
  simp [State.reg]

/-! ### Cells after each update -/

@[simp] theorem State.memRead_writeReg (r : Reg) (v : Int) (c : Nat) : (s.writeReg r v).memRead c = s.memRead c := rfl
@[simp] theorem State.memRead_writeFlags (f : Flags) (c : Nat) : (s.writeFlags f).memRead c = s.memRead c := rfl
@[simp] theorem State.memRead_setHalt (c : Nat) : s.setHalt.memRead c = s.memRead c := rfl
@[simp] theorem State.memRead_endRun (c : Nat) : s.endRun.memRead c = s.memRead c := rfl
@[simp] theorem State.memRead_answered (rest : List Int) (c : Nat) : (s.answered rest).memRead c = s.memRead c := rfl
@[simp] theorem State.memRead_acknowledged (left : Nat) (c : Nat) : (s.acknowledged left).memRead c = s.memRead c := rfl
@[simp] theorem State.memRead_diagnose (w : Nat) (c : Nat) : (s.diagnose w).memRead c = s.memRead c := rfl
@[simp] theorem State.memRead_compare (v : Nat) (c : Nat) : (s.compare v).memRead c = s.memRead c := rfl
@[simp] theorem State.memRead_advance (c : Nat) : s.advance.memRead c = s.memRead c := rfl
@[simp] theorem State.memRead_issue (req : Request) (ev : Event) (c : Nat) :
    (s.issue req ev).memRead c = s.memRead c := by
  simp [State.memRead]

end Sys2Proof.Machine
end

