-- ==== Sys2Proof/Laws/Exec.lean ====
section
/-! SUPPORT. What each shared operation and each instruction can answer, said once, so that later proofs cite
it and unfold no meaning. -/

namespace Sys2Proof.Machine

variable {s t : State}

/-! ### Shared operations -/

theorem complete_eq_next : complete s = .next t ↔ t = s.advance := by
  simp [complete, eq_comm]

theorem jumpTo_eq_next {a : Nat} : jumpTo a s = .next t ↔ t = s.writeReg .pc a := by
  simp [jumpTo, eq_comm]

theorem raise_ne_next {c : Condition} : raise c ≠ .next t := by
  simp [raise]

/-- The loop test lets the run go on exactly when the state is running (R81). -/
theorem runEnd_eq_none :
    runEnd s = none ↔ s.inRun = true ∧ s.halt = false ∧ s.reg .pc < 2 * s.listLen := by
  unfold runEnd
  cases s.inRun <;> cases s.halt <;> simp

theorem runEnd_eq_noRun : runEnd s = some .noRun ↔ s.inRun = false := by
  unfold runEnd
  cases s.inRun <;> cases s.halt <;> simp

theorem runEnd_eq_halted : runEnd s = some .halted ↔ s.inRun = true ∧ s.halt = true := by
  unfold runEnd
  cases s.inRun <;> cases s.halt <;> simp

theorem runEnd_eq_exhausted : runEnd s = some .exhausted ↔
    s.inRun = true ∧ s.halt = false ∧ 2 * s.listLen ≤ s.reg .pc := by
  unfold runEnd
  cases s.inRun <;> cases s.halt <;> simp

theorem runEnd_ne_fatal {c : Condition} : runEnd s ≠ some (.fatal c) := by
  unfold runEnd
  split
  · simp
  · split
    · simp
    · split <;> simp

/-! ### The instructions that always complete -/

theorem exec_ldm (opd : Nat) : exec (.ldm opd) s = .next (s.writeReg .acc opd).advance := rfl
theorem exec_ldd (opd : Nat) : exec (.ldd opd) s = .next (s.writeReg .acc (s.memRead opd)).advance := rfl
theorem exec_ldi (opd : Nat) :
    exec (.ldi opd) s = .next (s.writeReg .acc (s.memRead (s.memRead opd))).advance := rfl
theorem exec_ldx (opd : Nat) :
    exec (.ldx opd) s = .next (s.writeReg .acc (s.memRead (s.reg .acc + s.reg .ix))).advance := rfl
theorem exec_ldr (opd : Nat) : exec (.ldr opd) s = .next (s.writeReg .ix opd).advance := rfl
theorem exec_mov (opd : Nat) : exec (.mov opd) s = .next (s.writeReg .ix (s.reg .acc)).advance := rfl
theorem exec_sto (opd : Nat) :
    exec (.sto opd) s = .next (s.memWrite (s.reg .mar) (s.reg .acc)).advance := rfl
theorem exec_endNop (opd : Nat) : exec (.endNop opd) s = .next s.advance := rfl
theorem exec_addAddress (opd : Nat) : exec (.addAddress opd) s =
    .next (s.writeReg .acc ((s.reg .acc : Int) + (s.memRead opd : Int))).advance := rfl
theorem exec_addImmediate (opd : Nat) :
    exec (.addImmediate opd) s = .next (s.writeReg .acc ((s.reg .acc : Int) + (opd : Int))).advance := rfl
theorem exec_subAddress (opd : Nat) : exec (.subAddress opd) s =
    .next (s.writeReg .acc ((s.reg .acc : Int) - (s.memRead opd : Int))).advance := rfl
theorem exec_subImmediate (opd : Nat) :
    exec (.subImmediate opd) s = .next (s.writeReg .acc ((s.reg .acc : Int) - (opd : Int))).advance := rfl
theorem exec_jmp (opd : Nat) : exec (.jmp opd) s = .next (s.writeReg .pc opd) := rfl
theorem exec_endRun (opd : Nat) : exec (.endRun opd) s = .next s.setHalt.advance := rfl
theorem exec_cmpAddress (opd : Nat) :
    exec (.cmpAddress opd) s = .next (s.compare (s.memRead opd)).advance := rfl
theorem exec_cmpImmediate (opd : Nat) : exec (.cmpImmediate opd) s = .next (s.compare opd).advance := rfl
theorem exec_cmiAddress (opd : Nat) :
    exec (.cmiAddress opd) s = .next (s.compare (s.memRead (s.memRead opd))).advance := rfl

/-! ### The instructions with cases -/

theorem exec_inc (opd : Nat) : exec (.inc opd) s = .fault (.fatal (.notImplemented 0x24)) := rfl
theorem exec_dec (opd : Nat) : exec (.dec opd) s = .fault (.fatal (.notImplemented 0x25)) := rfl

theorem exec_jpe (opd : Nat) : exec (.jpe opd) s =
    .next (if s.reg .acc = 0 then s.writeReg .pc opd else s.advance) := by
  show execJpe opd s = _
  unfold execJpe jumpTo complete target
  split <;> rfl

theorem exec_jpn (opd : Nat) : exec (.jpn opd) s =
    .next (if s.reg .acc = 0 then s.advance else s.writeReg .pc opd) := by
  show execJpn opd s = _
  unfold execJpn jumpTo complete target
  split <;> simp_all

theorem exec_input_missing (opd : Nat) (h : s.inAttached = false) :
    exec (.input opd) s = .fault (.fatal .missingDeviceError) := by
  simp [exec, execIn, h, raise]

theorem exec_input_waits (opd : Nat) (h : s.inAttached = true) (ha : s.answers = []) :
    exec (.input opd) s = .next (s.issue .input .inputRequest) := by
  simp [exec, execIn, h, ha]

theorem exec_input_answered (opd : Nat) {w : Int} {rest : List Int} (h : s.inAttached = true)
    (ha : s.answers = w :: rest) : exec (.input opd) s =
      .next (((s.issue .input .inputRequest).answered rest).writeReg .acc w).advance := by
  simp [exec, execIn, h, ha, complete]

theorem exec_output_unattached (opd : Nat) (h : s.outAttached = false) :
    exec (.output opd) s = .next (s.diagnose (s.reg .acc)).advance := by
  simp [exec, execOut, h, complete]

theorem exec_output_waits (opd : Nat) (h : s.outAttached = true) (ha : s.acks = 0) :
    exec (.output opd) s = .next (s.issue .output (.output (s.reg .acc))) := by
  simp [exec, execOut, h, ha]

theorem exec_output_acknowledged (opd : Nat) {left : Nat} (h : s.outAttached = true)
    (ha : s.acks = left + 1) : exec (.output opd) s =
      .next ((s.issue .output (.output (s.reg .acc))).acknowledged left).advance := by
  simp [exec, execOut, h, ha, complete]

/-- All an `IN` can answer. -/
theorem exec_input_cases (opd : Nat) :
    (s.inAttached = false ∧ exec (.input opd) s = .fault (.fatal .missingDeviceError)) ∨
    (s.inAttached = true ∧ s.answers = [] ∧
      exec (.input opd) s = .next (s.issue .input .inputRequest)) ∨
    (∃ w rest, s.inAttached = true ∧ s.answers = w :: rest ∧ exec (.input opd) s =
      .next (((s.issue .input .inputRequest).answered rest).writeReg .acc w).advance) := by
  cases h : s.inAttached
  · exact .inl ⟨rfl, exec_input_missing opd h⟩
  · cases ha : s.answers with
    | nil => exact .inr (.inl ⟨rfl, rfl, exec_input_waits opd h ha⟩)
    | cons w rest => exact .inr (.inr ⟨w, rest, rfl, rfl, exec_input_answered opd h ha⟩)

/-- All an `OUT` can answer. -/
theorem exec_output_cases (opd : Nat) :
    (s.outAttached = false ∧ exec (.output opd) s = .next (s.diagnose (s.reg .acc)).advance) ∨
    (s.outAttached = true ∧ s.acks = 0 ∧
      exec (.output opd) s = .next (s.issue .output (.output (s.reg .acc)))) ∨
    (∃ left, s.outAttached = true ∧ s.acks = left + 1 ∧ exec (.output opd) s =
      .next ((s.issue .output (.output (s.reg .acc))).acknowledged left).advance) := by
  cases h : s.outAttached
  · exact .inl ⟨rfl, exec_output_unattached opd h⟩
  · cases ha : s.acks with
    | zero => exact .inr (.inl ⟨rfl, rfl, exec_output_waits opd h ha⟩)
    | succ left => exact .inr (.inr ⟨left, rfl, rfl, exec_output_acknowledged opd h ha⟩)

/-! ### One step -/

/-- All a step that answers a next state did: the run was not over, the two cells at `pc` decoded, and the
instruction they decoded to answered that state. -/
theorem step_next_cases (h : step s = .next t) :
    runEnd s = none ∧ ∃ i, fetch s = .ok i ∧ exec i s = .next t := by
  unfold step at h
  split at h
  · simp at h
  · rename_i hr
    split at h
    · exact absurd h raise_ne_next
    · rename_i i hf
      exact ⟨hr, i, hf, h⟩

/-- All a step that stops did: the run was over, or the opcode is in no row, or the instruction stopped. -/
theorem step_fault_cases {f : Fault} (h : step s = .fault f) :
    runEnd s = some f ∨
    (runEnd s = none ∧ ∃ opc, fetch s = .error (.invalidOpcode opc) ∧ f = .fatal (.invalidOpcodeError opc)) ∨
    (runEnd s = none ∧ ∃ i, fetch s = .ok i ∧ exec i s = .fault f) := by
  unfold step at h
  split at h
  · rename_i r hr
    simp only [Host.Outcome.fault.injEq] at h
    exact .inl (h ▸ hr)
  · rename_i hr
    split at h
    · rename_i opc hf
      simp only [raise, Host.Outcome.fault.injEq] at h
      exact .inr (.inl ⟨hr, opc, hf, h.symm⟩)
    · rename_i i hf
      exact .inr (.inr ⟨hr, i, hf, h⟩)

/-- Decoding reports the very opcode cell it was given (R133). -/
theorem decode_error_opcode {opc opd bad : Nat} (h : decode opc opd = .error (.invalidOpcode bad)) :
    bad = opc := by
  unfold decode at h
  split at h <;> simp_all

end Sys2Proof.Machine
end

