-- ==== Sys2Proof/Laws/Host.lean ====
section
/-! SUPPORT. One lemma per field for a device's late answer, and what loading a list of pairs leaves alone. -/

namespace Sys2Proof.Machine

variable (s : State)

@[simp] theorem deliverAnswer_width (w : Int) : (deliverAnswer w s).width = s.width := by
  unfold deliverAnswer; split <;> rfl
@[simp] theorem deliverAnswer_regs (w : Int) : (deliverAnswer w s).regs = s.regs := by
  unfold deliverAnswer; split <;> rfl
@[simp] theorem deliverAnswer_flags (w : Int) : (deliverAnswer w s).flags = s.flags := by
  unfold deliverAnswer; split <;> rfl
@[simp] theorem deliverAnswer_halt (w : Int) : (deliverAnswer w s).halt = s.halt := by
  unfold deliverAnswer; split <;> rfl
@[simp] theorem deliverAnswer_mem (w : Int) : (deliverAnswer w s).mem = s.mem := by
  unfold deliverAnswer; split <;> rfl
@[simp] theorem deliverAnswer_listLen (w : Int) : (deliverAnswer w s).listLen = s.listLen := by
  unfold deliverAnswer; split <;> rfl
@[simp] theorem deliverAnswer_inAttached (w : Int) : (deliverAnswer w s).inAttached = s.inAttached := by
  unfold deliverAnswer; split <;> rfl
@[simp] theorem deliverAnswer_outAttached (w : Int) : (deliverAnswer w s).outAttached = s.outAttached := by
  unfold deliverAnswer; split <;> rfl
@[simp] theorem deliverAnswer_inRun (w : Int) : (deliverAnswer w s).inRun = s.inRun := by
  unfold deliverAnswer; split <;> rfl
@[simp] theorem deliverAnswer_pending (w : Int) : (deliverAnswer w s).pending = s.pending := by
  unfold deliverAnswer; split <;> rfl
@[simp] theorem deliverAnswer_answers (w : Int) : (deliverAnswer w s).answers = if s.inAttached then s.answers ++ [w] else s.answers := by
  unfold deliverAnswer; split <;> rfl
@[simp] theorem deliverAnswer_acks (w : Int) : (deliverAnswer w s).acks = s.acks := by
  unfold deliverAnswer; split <;> rfl
@[simp] theorem deliverAnswer_events (w : Int) : (deliverAnswer w s).events = s.events := by
  unfold deliverAnswer; split <;> rfl
@[simp] theorem reg_deliverAnswer (w : Int) (q : Reg) : (deliverAnswer w s).reg q = s.reg q := by
  unfold deliverAnswer; split <;> rfl
@[simp] theorem memRead_deliverAnswer (w : Int) (c : Nat) : (deliverAnswer w s).memRead c = s.memRead c := by
  unfold deliverAnswer; split <;> rfl

@[simp] theorem deliverAck_width : (deliverAck s).width = s.width := by
  unfold deliverAck; split <;> rfl
@[simp] theorem deliverAck_regs : (deliverAck s).regs = s.regs := by
  unfold deliverAck; split <;> rfl
@[simp] theorem deliverAck_flags : (deliverAck s).flags = s.flags := by
  unfold deliverAck; split <;> rfl
@[simp] theorem deliverAck_halt : (deliverAck s).halt = s.halt := by
  unfold deliverAck; split <;> rfl
@[simp] theorem deliverAck_mem : (deliverAck s).mem = s.mem := by
  unfold deliverAck; split <;> rfl
@[simp] theorem deliverAck_listLen : (deliverAck s).listLen = s.listLen := by
  unfold deliverAck; split <;> rfl
@[simp] theorem deliverAck_inAttached : (deliverAck s).inAttached = s.inAttached := by
  unfold deliverAck; split <;> rfl
@[simp] theorem deliverAck_outAttached : (deliverAck s).outAttached = s.outAttached := by
  unfold deliverAck; split <;> rfl
@[simp] theorem deliverAck_inRun : (deliverAck s).inRun = s.inRun := by
  unfold deliverAck; split <;> rfl
@[simp] theorem deliverAck_pending : (deliverAck s).pending = s.pending := by
  unfold deliverAck; split <;> rfl
@[simp] theorem deliverAck_answers : (deliverAck s).answers = s.answers := by
  unfold deliverAck; split <;> rfl
@[simp] theorem deliverAck_acks : (deliverAck s).acks = if s.outAttached then s.acks + 1 else s.acks := by
  unfold deliverAck; split <;> rfl
@[simp] theorem deliverAck_events : (deliverAck s).events = s.events := by
  unfold deliverAck; split <;> rfl
@[simp] theorem reg_deliverAck (q : Reg) : (deliverAck s).reg q = s.reg q := by
  unfold deliverAck; split <;> rfl
@[simp] theorem memRead_deliverAck (c : Nat) : (deliverAck s).memRead c = s.memRead c := by
  unfold deliverAck; split <;> rfl

/-- A configuration is accepted exactly from width 8 up (R5). -/
theorem configuration_wellFormed_iff (c : Configuration) : c.wellFormed = true ↔ 8 ≤ c.width :=
  decide_eq_true_iff

/-- An instruction fits a width exactly when its operand does (R52). -/
theorem instr_wellFormed_iff (width : Nat) (i : Instr) :
    i.wellFormed width = true ↔ i.operand < 2 ^ width :=
  decide_eq_true_iff

/-- A pair is in the wire form exactly when its opcode is in 0..255 and its operand is not negative (R54). -/
theorem wirePair_wellFormed_iff (p : WirePair) :
    p.wellFormed = true ↔ 0 ≤ p.opcode ∧ p.opcode ≤ 255 ∧ 0 ≤ p.operand := by
  simp [WirePair.wellFormed, and_assoc]

/-- A truncated register file holds each register's low bits. -/
theorem getReg_truncRegs (width : Nat) (f : RegFile) (r : Reg) :
    getReg (truncRegs width f) r = getReg f r % 2 ^ width := by
  cases r <;> exact trunc_natCast _ _

/-- Loading pairs changes the memory and nothing else. -/
theorem loadPairs_eq (list : List WirePair) (a : Nat) (s : State) :
    loadPairs a list s = { s with mem := (loadPairs a list s).mem } := by
  induction list generalizing a s with
  | nil => rfl
  | cons p ps ih => rw [loadPairs, ih]; rfl

/-- Loading pairs keeps the memory's canonical form. -/
theorem wf_loadPairs (list : List WirePair) (a : Nat) {s : State} (hm : Memory.wf s.mem = true) :
    Memory.wf (loadPairs a list s).mem = true := by
  induction list generalizing a s with
  | nil => exact hm
  | cons p ps ih => exact ih _ (wf_writeCell _ _ (wf_writeCell _ _ hm))

/-- Loading pairs keeps every cell an `N`-bit word. -/
theorem fits_loadPairs (list : List WirePair) (a : Nat) {s : State}
    (hm : Memory.fits s.width s.mem = true) : Memory.fits s.width (loadPairs a list s).mem = true := by
  induction list generalizing a s with
  | nil => exact hm
  | cons p ps ih =>
    exact ih (s := (s.memWrite a p.opcode).memWrite (a + 1) p.operand) _
      (fits_writeCell _ (trunc_lt _ _) (fits_writeCell _ (trunc_lt _ _) hm))

end Sys2Proof.Machine
end

