-- ==== Sys2Proof/Laws/PerInstr.lean ====
section
/-! SUPPORT. The families of statements made once per instruction. -/

namespace Sys2Proof.Laws

/-- "The opcode is an 8-bit unsigned value" (R51): so every width of 8 or more stores it whole. -/
def OpcodeIsByte.Statement (i : Instr) : Prop :=
  i.opcode < 2 ^ 8

theorem OpcodeIsByte.ldm (opd : Nat) : OpcodeIsByte.Statement (.ldm opd) :=
  Nat.lt_of_sub_eq_succ rfl

theorem OpcodeIsByte.ldd (opd : Nat) : OpcodeIsByte.Statement (.ldd opd) :=
  Nat.lt_of_sub_eq_succ rfl

theorem OpcodeIsByte.ldi (opd : Nat) : OpcodeIsByte.Statement (.ldi opd) :=
  Nat.lt_of_sub_eq_succ rfl

theorem OpcodeIsByte.ldx (opd : Nat) : OpcodeIsByte.Statement (.ldx opd) :=
  Nat.lt_of_sub_eq_succ rfl

theorem OpcodeIsByte.ldr (opd : Nat) : OpcodeIsByte.Statement (.ldr opd) :=
  Nat.lt_of_sub_eq_succ rfl

theorem OpcodeIsByte.mov (opd : Nat) : OpcodeIsByte.Statement (.mov opd) :=
  Nat.lt_of_sub_eq_succ rfl

theorem OpcodeIsByte.sto (opd : Nat) : OpcodeIsByte.Statement (.sto opd) :=
  Nat.lt_of_sub_eq_succ rfl

theorem OpcodeIsByte.endNop (opd : Nat) : OpcodeIsByte.Statement (.endNop opd) :=
  Nat.lt_of_sub_eq_succ rfl

theorem OpcodeIsByte.input (opd : Nat) : OpcodeIsByte.Statement (.input opd) :=
  Nat.lt_of_sub_eq_succ rfl

theorem OpcodeIsByte.output (opd : Nat) : OpcodeIsByte.Statement (.output opd) :=
  Nat.lt_of_sub_eq_succ rfl

theorem OpcodeIsByte.addAddress (opd : Nat) : OpcodeIsByte.Statement (.addAddress opd) :=
  Nat.lt_of_sub_eq_succ rfl

theorem OpcodeIsByte.addImmediate (opd : Nat) : OpcodeIsByte.Statement (.addImmediate opd) :=
  Nat.lt_of_sub_eq_succ rfl

theorem OpcodeIsByte.subAddress (opd : Nat) : OpcodeIsByte.Statement (.subAddress opd) :=
  Nat.lt_of_sub_eq_succ rfl

theorem OpcodeIsByte.subImmediate (opd : Nat) : OpcodeIsByte.Statement (.subImmediate opd) :=
  Nat.lt_of_sub_eq_succ rfl

theorem OpcodeIsByte.inc (opd : Nat) : OpcodeIsByte.Statement (.inc opd) :=
  Nat.lt_of_sub_eq_succ rfl

theorem OpcodeIsByte.dec (opd : Nat) : OpcodeIsByte.Statement (.dec opd) :=
  Nat.lt_of_sub_eq_succ rfl

theorem OpcodeIsByte.jmp (opd : Nat) : OpcodeIsByte.Statement (.jmp opd) :=
  Nat.lt_of_sub_eq_succ rfl

theorem OpcodeIsByte.jpe (opd : Nat) : OpcodeIsByte.Statement (.jpe opd) :=
  Nat.lt_of_sub_eq_succ rfl

theorem OpcodeIsByte.jpn (opd : Nat) : OpcodeIsByte.Statement (.jpn opd) :=
  Nat.lt_of_sub_eq_succ rfl

theorem OpcodeIsByte.endRun (opd : Nat) : OpcodeIsByte.Statement (.endRun opd) :=
  Nat.lt_of_sub_eq_succ rfl

theorem OpcodeIsByte.cmpAddress (opd : Nat) : OpcodeIsByte.Statement (.cmpAddress opd) :=
  Nat.lt_of_sub_eq_succ rfl

theorem OpcodeIsByte.cmpImmediate (opd : Nat) : OpcodeIsByte.Statement (.cmpImmediate opd) :=
  Nat.lt_of_sub_eq_succ rfl

theorem OpcodeIsByte.cmiAddress (opd : Nat) : OpcodeIsByte.Statement (.cmiAddress opd) :=
  Nat.lt_of_sub_eq_succ rfl

end Sys2Proof.Laws
end

