-- ==== Sys2Proof/Tests/Slice0.lean ====
section
/-! SUPPORT. The model's own tests. Expected values come from the spec: the decode words from the encoding of R50 and
R56, the one-step tests from the vectors V1 to V55 of 95_test_vectors.md (named in each comment), the assembler
tests from its Part 4. The last section shows, for every statement with hypotheses, that they can be met. -/

namespace Sys2Proof.Tests

open Sys2Proof.Machine

/-- A machine of width 8 in a run with a list of 100 pairs loaded, `ACC`, `IX`, `MAR`, `PC` and the memory as given. -/
def machine (acc ix mar pc : Nat) (mem : Memory) : State :=
  { State.reset with
    regs := { acc := acc, ix := ix, cir := 0, mar := mar, mdr := 0, pc := pc }, mem := mem, listLen := 100, inRun := true }

/-- What `f` sees in the state one step later, if there is one. -/
def after {α : Type} (s : State) (f : State → α) : Option α :=
  match step s with
  | .next t => some (f t)
  | .fault _ => none
  | .refused _ => none

/-- Why the step at `s` stops, if it does. -/
def stop (s : State) : Option Fault :=
  match step s with
  | .next _ => none
  | .fault f => some f
  | .refused _ => none

/-- `ACC`, `IX` and `PC`. -/
def accIxPc (s : State) : Nat × Nat × Nat :=
  (s.reg .acc, s.reg .ix, s.reg .pc)

/-- `zero`, `carry`, `negative`, `overflow`, as the vectors write them. -/
def zcnv (s : State) : Bool × Bool × Bool × Bool :=
  (s.flags.zero, s.flags.carry, s.flags.negative, s.flags.overflow)

/-! ### Ill-formed terms are refused -/

theorem test_operand_too_wide : Instr.wellFormed 8 (.ldm 256) = false := by decide
theorem test_operand_widest : Instr.wellFormed 8 (.ldm 255) = true := by decide
theorem test_width_too_narrow : Configuration.wellFormed ⟨7, false, Config.zeroRegs⟩ = false := by decide
theorem test_wire_opcode_too_large : WirePair.wellFormed ⟨256, 0⟩ = false := by decide
theorem test_wire_opcode_negative : WirePair.wellFormed ⟨-1, 0⟩ = false := by decide
theorem test_wire_operand_negative : WirePair.wellFormed ⟨0, -1⟩ = false := by decide
theorem test_wire_list_refused : wireListWellFormed [⟨0, 300⟩, ⟨256, 0⟩] = false := by decide
theorem test_memory_listed_zero : Memory.wf [(3, 0)] = false := by decide
theorem test_memory_not_rising : Memory.wf [(3, 1), (3, 2)] = false := by decide

/-! ### Every row's word, bit by bit from R56: group nibble, then operation nibble -/

theorem test_decode_ldm : decode 0b00000000 0x5A = .ok (.ldm 0x5A) := rfl
theorem test_decode_ldd : decode 0b00000001 0x5A = .ok (.ldd 0x5A) := rfl
theorem test_decode_ldi : decode 0b00000010 0x5A = .ok (.ldi 0x5A) := rfl
theorem test_decode_ldx : decode 0b00000011 0x5A = .ok (.ldx 0x5A) := rfl
theorem test_decode_ldr : decode 0b00000100 0x5A = .ok (.ldr 0x5A) := rfl
theorem test_decode_mov : decode 0b00000101 0x5A = .ok (.mov 0x5A) := rfl
theorem test_decode_sto : decode 0b00000110 0x5A = .ok (.sto 0x5A) := rfl
theorem test_decode_endNop : decode 0b00000111 0x5A = .ok (.endNop 0x5A) := rfl
theorem test_decode_input : decode 0b00010000 0x5A = .ok (.input 0x5A) := rfl
theorem test_decode_output : decode 0b00010001 0x5A = .ok (.output 0x5A) := rfl
theorem test_decode_addAddress : decode 0b00100000 0x5A = .ok (.addAddress 0x5A) := rfl
theorem test_decode_addImmediate : decode 0b00100001 0x5A = .ok (.addImmediate 0x5A) := rfl
theorem test_decode_subAddress : decode 0b00100010 0x5A = .ok (.subAddress 0x5A) := rfl
theorem test_decode_subImmediate : decode 0b00100011 0x5A = .ok (.subImmediate 0x5A) := rfl
theorem test_decode_inc : decode 0b00100100 0x5A = .ok (.inc 0x5A) := rfl
theorem test_decode_dec : decode 0b00100101 0x5A = .ok (.dec 0x5A) := rfl
theorem test_decode_jmp : decode 0b00110000 0x5A = .ok (.jmp 0x5A) := rfl
theorem test_decode_jpe : decode 0b00110001 0x5A = .ok (.jpe 0x5A) := rfl
theorem test_decode_jpn : decode 0b00110010 0x5A = .ok (.jpn 0x5A) := rfl
theorem test_decode_endRun : decode 0b00110011 0x5A = .ok (.endRun 0x5A) := rfl
theorem test_decode_cmpAddress : decode 0b01000000 0x5A = .ok (.cmpAddress 0x5A) := rfl
theorem test_decode_cmpImmediate : decode 0b01000001 0x5A = .ok (.cmpImmediate 0x5A) := rfl
theorem test_decode_cmiAddress : decode 0b01000010 0x5A = .ok (.cmiAddress 0x5A) := rfl

/-- One value of each gap of R57 (V51), and a value above 255 (V52). -/
theorem test_decode_gaps : [0x08, 0x0F, 0x12, 0x1F, 0x26, 0x2F, 0x34, 0x3F, 0x43, 0x4F, 0x50, 0x80, 0xFE, 0xFF, 0x100].all
    (fun opc => decide ((decode opc 7).toOption = none)) = true := by decide
theorem test_decodeTableWord_row : decodeTableWord 8 0x42 = some (.cmiAddress 0) := by decide
theorem test_decodeTableWord_two_cells : decodeTableWord 16 0x6100 = some (.ldm 0x61) := by decide
theorem test_withFetchWord_runs : after (State.reset.withFetchWord 16 0x0504) accIxPc = some (0, 5, 2) := by decide

/-! ### One step -/

/-- V1. -/
theorem test_ldm : after (machine 0x12 0 0 0 [(1, 0x61)]) accIxPc = some (0x61, 0, 2) := by decide
/-- V40e: pc 254 wraps to 0. -/
theorem test_ldm_pc_wraps : after { machine 0 0 0 254 [(255, 1)] with listLen := 128 } accIxPc = some (1, 0, 0) := by decide
/-- V4: an unset cell reads 0. -/
theorem test_ldd_unset_cell : after (machine 9 0 0 0 [(0, 1), (1, 200)]) accIxPc = some (0, 0, 2) := by decide
/-- V5: loads its own opcode. -/
theorem test_ldd_own_opcode : after (machine 0 0 0 4 [(4, 1), (5, 4)]) accIxPc = some (1, 0, 6) := by decide
/-- V6. -/
theorem test_ldi : after (machine 0 0 0 0 [(0, 2), (1, 16), (12, 20), (16, 12)]) accIxPc = some (20, 0, 2) := by decide
/-- V7: a null pointer reads cell 0. -/
theorem test_ldi_null_pointer : after (machine 0 0 0 0 [(0, 2), (1, 50)]) accIxPc = some (2, 0, 2) := by decide
/-- V8. -/
theorem test_ldx : after (machine 12 2 0 0 [(0, 3), (14, 9)]) accIxPc = some (9, 2, 2) := by decide
/-- V9 with a word at cell 257: address 255 + 2, not 1. -/
theorem test_ldx_untruncated : after (machine 0xFF 2 0 0 [(0, 3), (1, 0x55), (257, 6)]) accIxPc = some (6, 2, 2) := by decide
/-- V10. -/
theorem test_ldr : after (machine 3 7 0 0 [(0, 4), (1, 2)]) accIxPc = some (3, 2, 2) := by decide
/-- V11: the operand is ignored. -/
theorem test_mov : after (machine 0x2A 0 0 0 [(0, 5), (1, 1)]) accIxPc = some (0x2A, 0x2A, 2) := by decide
/-- V12. -/
theorem test_sto : after (machine 0x33 0 0 2 [(2, 6)]) (fun s => (s.mem, s.reg .pc)) = some ([(0, 0x33), (2, 6)], 4) := by decide
/-- V13. -/
theorem test_sto_ignores_operand : after (machine 9 0 20 0 [(0, 6), (1, 77)]) (fun s => (s.memRead 20, s.memRead 77)) = some (9, 0) := by decide
/-- V14: does not halt. -/
theorem test_endNop : after (machine 5 0 0 0 [(0, 7)]) (fun s => (s.halt, s.reg .pc)) = some (false, 2) := by decide
/-- V16: 300 mod 256 = 44. -/
theorem test_in_truncates : after { machine 0 0 0 0 [(0, 0x10)] with inAttached := true, answers := [300, 1] } (fun s => (accIxPc s, s.answers, s.requestCount)) = some ((44, 0, 2), [1], 1) := by decide
/-- V17. -/
theorem test_in_missing_device : stop (machine 7 0 0 0 [(0, 0x10)]) = some (.fatal .missingDeviceError) := by decide
/-- V18. -/
theorem test_out : after { machine 97 0 0 0 [(0, 0x11)] with outAttached := true, acks := 1 } (fun s => (accIxPc s, s.outputs, s.diagnostics)) = some ((97, 0, 2), [97], []) := by decide
/-- V19. -/
theorem test_out_unattached : after (machine 97 0 0 0 [(0, 0x11)]) (fun s => (accIxPc s, s.outputs, s.diagnostics)) = some ((97, 0, 2), [], [97]) := by decide
/-- V24. -/
theorem test_addAddress : after (machine 7 0 0 0 [(0, 0x20), (1, 11), (11, 5)]) accIxPc = some (12, 0, 2) := by decide
/-- V21. -/
theorem test_addImmediate_wraps : after (machine 0xF0 0 0 0 [(0, 0x21), (1, 0x20)]) accIxPc = some (0x10, 0, 2) := by decide
/-- V31: no wrap at 8 bits when N = 16. -/
theorem test_addImmediate_width16 : after { machine 0xFF 0 0 0 [(0, 0x21), (1, 1)] with width := 16 } accIxPc = some (0x100, 0, 2) := by decide
/-- V27: 3 - 5 = -2 stored as 254. -/
theorem test_subAddress_borrows : after (machine 3 0 0 0 [(0, 0x22), (1, 11), (11, 5)]) accIxPc = some (0xFE, 0, 2) := by decide
/-- V26. -/
theorem test_subImmediate_borrows : after (machine 0 0 0 0 [(0, 0x23), (1, 1)]) accIxPc = some (0xFF, 0, 2) := by decide
/-- V34. -/
theorem test_subImmediate_keeps_flags : after { machine 1 0 0 0 [(0, 0x23), (1, 1)] with flags := ⟨true, true, false, true⟩ } (fun s => (s.reg .acc, zcnv s)) = some (0, true, true, true, false) := by decide
/-- V32. -/
theorem test_inc : stop (machine 5 0 0 2 [(2, 0x24)]) = some (.fatal (.notImplemented 0x24)) := by decide
/-- V33. -/
theorem test_dec : stop (machine 5 0 0 0 [(0, 0x25), (1, 1)]) = some (.fatal (.notImplemented 0x25)) := by decide
/-- V36. -/
theorem test_jmp_odd_target : after (machine 0 0 0 0 [(0, 0x30), (1, 3)]) accIxPc = some (0, 0, 3) := by decide
/-- V37. -/
theorem test_jpe_taken : after (machine 0 0 0 2 [(2, 0x31), (3, 8)]) accIxPc = some (0, 0, 8) := by decide
/-- V39. -/
theorem test_jpe_ignores_zero_flag : after { machine 5 0 0 2 [(2, 0x31), (3, 8)] with flags := ⟨false, false, false, true⟩ } accIxPc = some (5, 0, 4) := by decide
/-- V40. -/
theorem test_jpn_taken : after (machine 2 0 0 4 [(4, 0x32), (5, 2)]) accIxPc = some (2, 0, 2) := by decide
/-- V40b. -/
theorem test_jpn_not_taken : after (machine 0 0 0 4 [(4, 0x32), (5, 2)]) accIxPc = some (0, 0, 6) := by decide
/-- V40c. -/
theorem test_end : after (machine 0 0 0 4 [(4, 0x33), (5, 9)]) (fun s => (s.halt, s.reg .pc, stop s)) = some (true, 6, some .halted) := by decide
/-- V45. -/
theorem test_cmpAddress_less : after (machine 12 0 0 0 [(0, 0x40), (1, 12), (12, 20)]) (fun s => (s.reg .acc, zcnv s)) = some (12, false, true, true, false) := by decide
/-- V46. -/
theorem test_cmpAddress_unset_cell : after (machine 0 0 0 0 [(0, 0x40), (1, 90)]) zcnv = some (true, false, false, false) := by decide
/-- V44: 255 > 1. -/
theorem test_cmpImmediate_unsigned : after (machine 0xFF 0 0 0 [(0, 0x41), (1, 1)]) zcnv = some (false, false, false, false) := by decide
/-- V48, with overflow set: it stays. -/
theorem test_cmpImmediate_rewrites : after { machine 5 0 0 0 [(0, 0x41), (1, 3)] with flags := ⟨true, true, true, true⟩ } zcnv = some (false, false, false, true) := by decide
/-- V47. -/
theorem test_cmiAddress_equal : after (machine 20 0 0 0 [(0, 0x42), (1, 16), (12, 20), (16, 12)]) zcnv = some (true, false, false, false) := by decide
/-- V48b. -/
theorem test_cmiAddress_less : after (machine 0 0 0 0 [(0, 0x42), (1, 16), (12, 1), (16, 12)]) zcnv = some (false, true, true, false) := by decide
/-- V49. -/
theorem test_invalid_opcode : stop (machine 1 0 0 2 [(2, 0xFE)]) = some (.fatal (.invalidOpcodeError 0xFE)) := by decide
/-- V52: the low byte of 0x100 is LDM, the cell is invalid. -/
theorem test_invalid_opcode_wide : stop { machine 0 0 0 0 [(0, 0x100)] with width := 16 } = some (.fatal (.invalidOpcodeError 0x100)) := by decide
/-- V53: L = 0. -/
theorem test_empty_list_exhausted : ((execute 1 [] State.reset).toOption.bind fun r => r.outcome) = some .exhausted := by decide
/-- No step before a launch. -/
theorem test_no_run_at_reset : stop State.reset = some .noRun := by decide
/-- Part 4, step 5 of the label hazard: pc = 1 reads (0x03, 0x23). -/
theorem test_odd_pc_fetch : after (machine 2 0 0 1 [(1, 3), (2, 0x23)]) accIxPc = some (0x23, 0, 3) := by decide

/-! ### The host's operations -/

theorem test_construct_default : construct ⟨Config.resetWidth, false, Config.zeroRegs⟩ = .ok State.reset := rfl
/-- S13: width 7 is refused. -/
theorem test_construct_narrow : construct ⟨7, false, Config.zeroRegs⟩ = .error .configurationError := rfl
/-- P1's memory image, and A-L1: the operand 300 is stored as 44. -/
theorem test_launch_image : (launch [⟨0x00, 300⟩, ⟨0x21, 3⟩, ⟨0x33, 0⟩] State.reset).toOption.map
    (fun s => (s.mem, s.listLen, s.reg .pc)) = some ([(1, 44), (2, 0x21), (3, 3), (4, 0x33)], 3, 0) := by decide
/-- P7: a second launch keeps `ACC` and the cells past its list, and clears `halt`. -/
theorem test_relaunch_keeps : (launch [⟨0x21, 1⟩] { machine 12 0 20 12 [(4, 6), (20, 12)] with halt := true, inRun := false }).toOption.map
    (fun s => (s.reg .acc, s.memRead 4, s.memRead 20, s.halt)) = some (12, 6, 12, false) := by decide

/-- R152: no attachment and no launch between two steps of a run. -/
theorem test_no_attach_in_run : attachInput [1] (machine 0 0 0 0 []) = .error .runInProgress ∧
    attachOutput 1 (machine 0 0 0 0 []) = .error .runInProgress ∧
    launch [] (machine 0 0 0 0 []) = .error .runInProgress := ⟨rfl, rfl, rfl⟩
/-- V17, then the device is attached and the list launched again, as R156 has it: the `IN` now completes. -/
theorem test_attach_after_missing_device :
    ((attachInput [15] (run 1 (machine 7 0 0 0 [(0, 0x10)])).final).toOption.bind fun s =>
      (launch [⟨0x10, 0⟩] s).toOption.bind fun t => after t accIxPc) = some (15, 0, 2) := by decide

/-! ### The assembler (Part 4 of 95_test_vectors.md) -/

/-- Assemble one line with the default parameters. -/
def line (text : String) : Except AssemblerError (List WirePair) :=
  assemble Config.defaultAssembler text.toList

theorem test_assemble_A2 : line "ADD &1F" = .ok [⟨0x21, 31⟩] := by decide
theorem test_assemble_A3 : line "SUB B101" = .ok [⟨0x23, 5⟩] := by decide
theorem test_assemble_A4 : line "CMP IX" = .ok [⟨0x40, 1⟩] := by decide
theorem test_assemble_A7 : line "ADD" = .ok [⟨0x20, 0⟩] := by decide
theorem test_assemble_AM1 : line "FOO #1" = .ok [⟨0xFF, 1⟩] := by decide
theorem test_assemble_AE1 : line "JMP nowhere" = .error .unresolvedLabelError := by decide
theorem test_assemble_AE2 : line "ADD 20" = .error .unresolvedLabelError := by decide
theorem test_assemble_AE3 : line "LDM #-1" = .error .invalidOperandError := by decide
theorem test_assemble_AD1 : line "count: #5" = .ok [⟨0xFF, 0⟩] := by decide
theorem test_assemble_AT1 : line "LDM #2 extra words" = .ok [⟨0x00, 2⟩] := by decide
theorem test_assemble_AC1 : line "  ; only a comment" = .ok [] := by decide
set_option maxRecDepth 2000 in
/-- The label program of Part 4 with `LABEL_SCALE = 2`: its fourth pair is `(0x30, 4)`. -/
theorem test_assemble_labels : assemble { Config.defaultAssembler with labelScale := .two }
    "start:\n IN\n STO\nagain: OUT ; comment\n JMP again\ndata: END".toList =
    .ok [⟨0x10, 0⟩, ⟨0x06, 0⟩, ⟨0x11, 0⟩, ⟨0x30, 4⟩, ⟨0x33, 0⟩] := by decide

/-! ### The hypotheses of the statements can be met -/

/-- A running machine with an answering input device and an acknowledging output device. -/
def attached (mem : Memory) : State :=
  { machine 5 0 20 0 mem with inAttached := true, outAttached := true, answers := [300], acks := 1 }

/-- The same, with devices that never answer. -/
def silent (mem : Memory) : State :=
  { attached mem with answers := [], acks := 0 }

/-- A machine with well-formed memory and registers and no request outstanding is well-formed. -/
theorem machine_wellFormed (acc ix mar pc : Nat) (mem : Memory) (ha : acc < 256) (hi : ix < 256) (hm : mar < 256)
    (hp : pc < 256) (hw : Memory.wf mem = true) (hf : Memory.fits 8 mem = true) :
    (machine acc ix mar pc mem).WellFormed :=
  ⟨Nat.le_refl 8, by intro r; cases r <;> first | assumption | exact Nat.two_pow_pos 8, hw, hf,
   by intro q hq; cases hq⟩

theorem witness_EncodedInstructionIsFetchedBack : Config.minWidth ≤ (machine 0 0 0 255 [(3, 1)]).width ∧
    Memory.wf (machine 0 0 0 255 [(3, 1)]).mem = true ∧ (Instr.jmp 255).wellFormed 8 = true := by decide
theorem witness_InvalidOpcodesAreFatal : (machine 0 0 0 2 [(2, 0xFE)]).Running ∧
    fetchOpcode (machine 0 0 0 2 [(2, 0xFE)]) = 0xFE ∧ InvalidOpcode 0xFE := by
  unfold State.Running InvalidOpcode; decide
theorem witness_InvalidOpcode_ranges : InvalidOpcode 0x08 ∧ InvalidOpcode 0x12 ∧ InvalidOpcode 0x26 ∧
    InvalidOpcode 0x34 ∧ InvalidOpcode 0x43 ∧ InvalidOpcode 0x100 := by
  refine ⟨?_, ?_, ?_, ?_, ?_, ?_⟩ <;> unfold InvalidOpcode <;> decide
theorem witness_StepRunsTheFetchedInstruction : (machine 0 0 0 4 [(4, 0x33), (5, 9)]).inRun = true ∧
    (machine 0 0 0 4 [(4, 0x33), (5, 9)]).halt = false ∧
    (machine 0 0 0 4 [(4, 0x33), (5, 9)]).reg .pc < 2 * 100 ∧
    decode ((machine 0 0 0 4 [(4, 0x33), (5, 9)]).memRead 4) ((machine 0 0 0 4 [(4, 0x33), (5, 9)]).memRead 5) =
      .ok (.endRun 9) := by decide
theorem witness_StoWritesTheCellInMarOnly : Memory.wf (machine 9 0 20 0 [(0, 6), (1, 77)]).mem = true := by decide
theorem witness_InStoresTheAnswer : (attached []).inAttached = true ∧ (attached []).pending = none ∧
    (attached []).answers = [300] := by decide
theorem witness_InWithoutAnswerWaits : (silent []).inAttached = true ∧ (silent []).answers = [] := by decide
theorem witness_OutHandsAccToTheDeviceOnce : (attached []).outAttached = true ∧ (attached []).pending = none ∧
    (attached []).acks = 0 + 1 ∧ (silent []).outAttached = true ∧ (silent []).pending = none ∧
    (silent []).acks = 0 := by decide
theorem witness_UnattachedOutIsNotFatal : (machine 97 0 0 0 []).outAttached = false := by decide
theorem witness_LateAnswerCompletesTheWaitingCall : (silent []).pending = none ∧ (silent []).inAttached = true ∧
    (silent []).answers = [] ∧ (silent []).outAttached = true ∧ (silent []).acks = 0 := by decide
theorem witness_UnansweredDeviceStallsTheRun : (silent [(0, 0x10)]).Running ∧
    fetch (silent [(0, 0x10)]) = .ok (.input 0) ∧ (silent [(0, 0x10)]).inAttached = true ∧
    (silent [(0, 0x10)]).answers = [] ∧ (silent [(0, 0x11)]).Running ∧
    fetch (silent [(0, 0x11)]) = .ok (.output 0) ∧ (silent [(0, 0x11)]).outAttached = true ∧
    (silent [(0, 0x11)]).acks = 0 := by
  unfold State.Running; decide
theorem witness_DeviceCallsFollowProgramOrder :
    (∃ t, exec (.input 0) (attached []) = .next t) ∧ (∃ t, exec (.ldm 1) (attached []) = .next t) ∧
    (Instr.ldm 1).group ≠ .inputOutput := ⟨⟨_, rfl⟩, ⟨_, rfl⟩, by decide⟩
theorem witness_ConditionalJumpsTestAcc : (machine 0 0 0 0 []).reg .acc = 0 ∧
    (machine 1 0 0 0 []).reg .acc ≠ 0 := by decide
theorem witness_OnlyTakenJumpsRedirectPc : (∃ t, exec (.jpe 8) (machine 0 0 0 2 []) = .next t ∧ t.reg .pc = 8) ∧
    (∃ t, exec (.jpe 8) (machine 1 0 0 2 []) = .next t ∧ t.reg .pc = 4) ∧
    (∃ t, exec (.input 0) (silent []) = .next t ∧ t.pending ≠ none ∧ t.reg .pc = 0) :=
  ⟨⟨_, rfl, by decide⟩, ⟨_, rfl, by decide⟩, ⟨_, rfl, by decide, by decide⟩⟩
theorem witness_HaltIsSetByEndAlone : (∃ t, exec (.endRun 9) (machine 0 0 0 4 []) = .next t ∧ t.halt = true) ∧
    (∃ t, exec (.endNop 0) (machine 0 0 0 4 []) = .next t ∧ t.halt = false) := ⟨⟨_, rfl, rfl⟩, ⟨_, rfl, rfl⟩⟩
theorem witness_SelfJumpNeverEnds : (machine 0 0 0 4 [(4, 0x30), (5, 4)]).Running ∧
    IsWord 8 ((machine 0 0 0 4 [(4, 0x30), (5, 4)]).reg .pc) ∧
    fetch (machine 0 0 0 4 [(4, 0x30), (5, 4)]) = .ok (.jmp 4) := by
  unfold State.Running; decide
theorem witness_OnlyComparisonsWriteFlags : (∃ t, exec (.subImmediate 1) (machine 0 0 0 0 []) = .next t) ∧
    (Instr.subImmediate 1).group ≠ .comparison ∧ (∃ t, exec (.cmpImmediate 1) (machine 0 0 0 0 []) = .next t) :=
  ⟨⟨_, rfl⟩, by decide, ⟨_, rfl⟩⟩
theorem witness_MemWriteChangesOneCell : Memory.wf (machine 0 0 0 0 [(3, 7)]).mem = true ∧
    (∀ opd, Instr.ldd 3 ≠ .sto opd) ∧ (∃ t, exec (.ldd 3) (machine 0 0 0 0 [(3, 7)]) = .next t) :=
  ⟨by decide, (fun _ h => by cases h), ⟨_, rfl⟩⟩
/-- `STO` into the opcode cell of the next instruction, and into its operand cell. -/
theorem witness_StoreIsSeenByTheNextFetch :
    Memory.wf (machine 0x33 0 4 2 [(2, 6)]).mem = true ∧
    (∃ t, exec (.sto 0) (machine 0x33 0 4 2 [(2, 6)]) = .next t ∧ t.reg .pc = 4) ∧
    (∃ t, exec (.sto 0) (machine 0x33 0 5 2 [(2, 6)]) = .next t ∧ t.reg .pc + 1 = 5) :=
  ⟨by decide, ⟨_, rfl, by decide⟩, ⟨_, rfl, by decide⟩⟩
theorem witness_EqualReadsMeanEqualMemories : Memory.wf [(3, 7)] = true ∧
    ∀ a, readCell [(3, 7)] a = readCell (writeCell [] 3 7) a := ⟨by decide, fun _ => rfl⟩
theorem witness_StepKeepsInertState : ∃ t, step (machine 9 0 20 0 [(0, 6)]) = .next t := ⟨_, rfl⟩
/-- A well-formed state that steps, and one that waits. -/
theorem witness_StepKeepsWellFormed :
    ((machine 9 0 20 0 [(0, 6)]).WellFormed ∧ ∃ t, step (machine 9 0 20 0 [(0, 6)]) = .next t) ∧
    (let s := { silent [(0, 0x10)] with pending := some .input, events := [.inputRequest] }
     s.WellFormed ∧ ∃ t, step s = .next t) :=
  ⟨⟨machine_wellFormed _ _ _ _ _ (by decide) (by decide) (by decide) (by decide) (by decide) (by decide), _, rfl⟩,
   ⟨⟨by decide, by intro r; cases r <;> decide, by decide, by decide,
     by intro q hq; cases hq; exact ⟨⟨by decide, by decide⟩, by decide, by decide, by decide⟩⟩, _, rfl⟩⟩
theorem witness_HostOperationsKeepWellFormed :
    (∃ t, construct ⟨16, true, ⟨1, 2, 3, 4, 5, 6⟩⟩ = .ok t) ∧ (machine 9 0 20 0 [(0, 6)]).endRun.WellFormed ∧
    (∃ t, attachInput [300] (machine 9 0 20 0 [(0, 6)]).endRun = .ok t) ∧
    (∃ t, attachOutput 2 (machine 9 0 20 0 [(0, 6)]).endRun = .ok t) ∧
    (∃ t, launch [⟨0, 300⟩] (machine 9 0 20 0 [(0, 6)]).endRun = .ok t) :=
  have h := machine_wellFormed 9 0 20 0 [(0, 6)] (by decide) (by decide) (by decide) (by decide) (by decide) (by decide)
  ⟨⟨_, rfl⟩, ⟨h.width_ok, h.regs_fit, h.mem_canonical, h.mem_fits, by intro q hq; cases hq⟩,
   ⟨_, rfl⟩, ⟨_, rfl⟩, ⟨_, rfl⟩⟩
/-- One run for each outcome. -/
theorem witness_RunOutcomeDescribesItsFinalState :
    (run 2 (machine 0 0 0 4 [(4, 0x33)])).outcome = some .halted ∧
    (run 1 { State.reset with inRun := true }).outcome = some .exhausted ∧ (run 1 State.reset).outcome = some .noRun ∧
    (run 2 (machine 0 0 0 0 [(1, 1), (2, 0xFE)])).outcome = some (.fatal (.invalidOpcodeError 0xFE)) := by decide
theorem witness_RunsCompose : (∃ t, step (machine 0 0 0 0 [(1, 1)]) = .next t) ∧
    step (machine 0 0 0 200 []) = .fault .exhausted ∧ (run 1 (machine 0 0 0 0 [(1, 1)])).outcome = none ∧
    (run 1 State.reset).outcome ≠ none :=
  ⟨⟨_, rfl⟩, rfl, by decide, by decide⟩
theorem witness_LongListsNeverExhaust :
    ({ State.reset with listLen := 128 } : State).WellFormed ∧ 2 ^ 8 ≤ 2 * 128 :=
  ⟨⟨by decide, by intro r; cases r <;> decide, by decide, by decide, by intro q hq; cases hq⟩, by decide⟩
theorem witness_StepStopsExactlyWhenTheRulesSay : (machine 0 0 0 0 [(0, 0x24)]).Running ∧
    fetchOpcode (machine 0 0 0 0 [(0, 0x24)]) = 0x24 ∧ (machine 0 0 0 200 []).inRun = true ∧ (machine 0 0 0 200 []).halt = false ∧
    2 * (machine 0 0 0 200 []).listLen ≤ (machine 0 0 0 200 []).reg .pc := by
  unfold State.Running; decide
theorem witness_ConstructionRefusesNarrowWidths : (⟨7, false, Config.zeroRegs⟩ : Configuration).width < 8 ∧
    8 ≤ (⟨8, false, Config.zeroRegs⟩ : Configuration).width := by decide
theorem witness_ConstructionHoldsInitReg : 8 ≤ (⟨8, true, ⟨1, 2, 3, 4, 5, 256⟩⟩ : Configuration).width := by decide
theorem witness_LaunchLoadsTheList : (machine 9 0 20 0 [(0, 6)]).endRun.inRun = false ∧
    Memory.wf (machine 9 0 20 0 [(0, 6)]).endRun.mem = true ∧ wireListWellFormed [⟨0xFE, 300⟩, ⟨255, 0⟩] = true := by decide
theorem witness_LaunchRefusesListsOutsideTheWireForm : State.reset.inRun = false ∧
    ∃ p ∈ [(⟨0, 1⟩ : WirePair), ⟨256, 0⟩], p.opcode < 0 ∨ 255 < p.opcode ∨ p.operand < 0 :=
  ⟨rfl, ⟨256, 0⟩, by decide, by decide⟩
theorem witness_AttachmentReplacesTheDevice : (attached []).endRun.inRun = false := by decide
theorem witness_AbbreviatedMnemonicsFollowTheOperandPrefix : hasValuePrefix "#3".toList = true ∧ hasValuePrefix "".toList = false ∧
    "LDM".toList ≠ "ADD".toList ∧ "LDM".toList ≠ "SUB".toList ∧ "LDM".toList ≠ "CMP".toList := by decide
theorem witness_AssembledListsAreInTheWireForm : (∀ r, 0 ≤ Config.defaultAssembler.regIdx r) ∧
    assemble Config.defaultAssembler "MOV IX".toList = .ok [⟨0x05, 1⟩] :=
  ⟨by intro r; cases r <;> decide, by decide⟩
/-- A label-only line and an instruction before a labelled instruction; the first clause's premises, then the
second's, with an instruction that refers to the label. -/
theorem witness_LabelIsTheIndexOfItsInstruction :
    isLabel "again:".toList = true ∧
    (∀ g ∈ [(⟨"start:".toList, [], []⟩ : Fields), ⟨"IN".toList, [], []⟩], g.first ≠ []) ∧
    (∀ g ∈ [(⟨"start:".toList, [], []⟩ : Fields), ⟨"IN".toList, [], []⟩],
      isLabel g.first = true → labelName g.first ≠ labelName "again:".toList) ∧
    (⟨[], "JMP".toList, .symbol "again".toList⟩ : Intermediate).operand = .symbol (labelName "again:".toList) := by
  decide
/-- A run in progress, and a run that has an outcome, with a list to launch after it. -/
theorem witness_HostActsOnlyBetweenRuns : (machine 9 0 20 0 [(0, 6)]).inRun = true ∧
    (∃ t, step (machine 9 0 20 0 [(0, 6)]) = .next t) ∧
    (run 1 (machine 7 0 0 0 [(0, 0x10)])).outcome = some (.fatal .missingDeviceError) ∧
    wireListWellFormed [⟨0xFE, 300⟩, ⟨255, 0⟩] = true := ⟨rfl, ⟨_, rfl⟩, by decide, by decide⟩
/-- One state for each row of the outcome table: 0x08 and 0x100 are the ends of the invalid ranges. -/
theorem witness_RunsEndAsTheOutcomeTableSays :
    ({ machine 0 0 0 4 [] with halt := true }).inRun = true ∧
    ((machine 0 0 0 200 []).inRun = true ∧ (machine 0 0 0 200 []).halt = false ∧
      2 * (machine 0 0 0 200 []).listLen ≤ (machine 0 0 0 200 []).reg .pc) ∧
    (machine 0 0 0 198 [(198, 8)]).Running ∧ fetchOpcode (machine 0 0 0 198 [(198, 8)]) = 0x08 ∧
    fetchOpcode (machine 0 0 0 198 [(198, 256)]) = 0x100 ∧ fetchOpcode (machine 0 0 0 198 [(198, 36)]) = 0x24 ∧
    fetchOpcode (machine 0 0 0 198 [(198, 37)]) = 0x25 ∧ fetchOpcode (machine 0 0 0 198 [(198, 16)]) = 0x10 ∧
    (machine 0 0 0 198 [(198, 16)]).inAttached = false ∧
    fetch (machine 0 0 0 198 [(198, 7)]) = .ok (.endNop 0) := by
  unfold State.Running; decide

end Sys2Proof.Tests
end

section
/-! PROOFS. Memory (20_memory.md): a write replaces one cell, and of the instructions only `STO` writes. -/

namespace Sys2Proof.Machine

variable {s t : State}

/-- An `IN` leaves the memory as it is, waiting or answered. -/
theorem mem_of_exec_input {opd : Nat} (h : exec (.input opd) s = .next t) : t.mem = s.mem := by
  obtain ⟨-, he⟩ | ⟨-, -, he⟩ | ⟨w, rest, -, -, he⟩ := exec_input_cases (s := s) opd
  · simp [he] at h
  · rw [he, Host.Outcome.next.injEq] at h
    simp [← h]
  · rw [he, Host.Outcome.next.injEq] at h
    simp [← h]

/-- An `OUT` leaves the memory as it is, unattached, waiting or acknowledged. -/
theorem mem_of_exec_output {opd : Nat} (h : exec (.output opd) s = .next t) : t.mem = s.mem := by
  obtain ⟨-, he⟩ | ⟨-, -, he⟩ | ⟨left, -, -, he⟩ := exec_output_cases (s := s) opd
  all_goals
    rw [he, Host.Outcome.next.injEq] at h
    simp [← h]

/-- `STO` is the only instruction that writes memory (R33): any other that answers a next state leaves the
very list, not only what its cells read. -/
theorem mem_of_exec_ne_sto {i : Instr} (hi : ∀ opd, i ≠ .sto opd) (h : exec i s = .next t) :
    t.mem = s.mem := by
  cases i with
  | sto opd => exact absurd rfl (hi opd)
  | input opd => exact mem_of_exec_input h
  | output opd => exact mem_of_exec_output h
  | inc opd => simp [exec_inc] at h
  | dec opd => simp [exec_dec] at h
  | jmp opd =>
    rw [exec_jmp, Host.Outcome.next.injEq] at h
    simp [← h]
  | jpe opd =>
    rw [exec_jpe, Host.Outcome.next.injEq] at h
    rw [← h]
    split <;> simp
  | jpn opd =>
    rw [exec_jpn, Host.Outcome.next.injEq] at h
    rw [← h]
    split <;> simp
  | ldm opd | ldd opd | ldi opd | ldx opd | ldr opd | mov opd | endNop opd | addAddress opd
  | addImmediate opd | subAddress opd | subImmediate opd | endRun opd | cmpAddress opd
  | cmpImmediate opd | cmiAddress opd =>
    simp only [exec_ldm, exec_ldd, exec_ldi, exec_ldx, exec_ldr, exec_mov, exec_endNop, exec_addAddress,
      exec_addImmediate, exec_subAddress, exec_subImmediate, exec_endRun, exec_cmpAddress,
      exec_cmpImmediate, exec_cmiAddress, Host.Outcome.next.injEq] at h
    simp [← h]

/-- States with the same memory list read the same in every cell. -/
theorem memKept_of_mem_eq (h : t.mem = s.mem) : MemKept s t :=
  fun a => congrArg (readCell · a) h

/-- Settles O32: the written cell by the law of `memWrite` and the truncation of a natural number, the
instructions by the frame of everything but `STO`. -/
theorem memWriteChangesOneCell : Obligations.MemWriteChangesOneCell := by
  refine ⟨fun s a b v hm => ?_, fun s t i hi h => memKept_of_mem_eq (mem_of_exec_ne_sto hi h)⟩
  rw [State.memRead_memWrite a b v hm, trunc_natCast]

end Sys2Proof.Machine
end

section
/-! PROOFS. Data move (41_data_move.md): the effect of "write one register, then advance" and of "store one cell,
then advance", said once, and the loads, `MOV` and `STO` as uses of them. -/

namespace Sys2Proof.Machine

variable (s : State)

/-! ### Encoding -/

/-- Every instruction is read back from, and written as, its own two cells (R50, R56). -/
theorem encodedAs_opcode_operand (i : Instr) : EncodedAs i.opcode i.operand i :=
  ⟨rfl, by cases i <;> rfl⟩

/-! ### Writing one register, then advancing -/

/-- The advance reads the `PC` from before, a write to another register not being one to `PC`. -/
theorem pcAdvanced_writeReg_advance {r : Reg} (hr : r ≠ .pc) (v : Int) :
    PcAdvanced s (s.writeReg r v).advance := by
  simp [PcAdvanced, hr.symm]

/-- A register write and the advance touch that register and `PC` only (R11, R85). -/
theorem onlyRegs_writeReg_advance (r : Reg) (v : Int) :
    OnlyRegs [r, .pc] s (s.writeReg r v).advance where
  regs q hq := by
    obtain ⟨hqr, hqpc⟩ : q ≠ r ∧ q ≠ .pc := by simpa using hq
    simp [hqr, hqpc]
  flags := rfl
  halt := rfl
  mem _ := rfl
  devices := ⟨rfl, rfl, rfl, rfl⟩
  setup := ⟨rfl, rfl, rfl, rfl, rfl⟩

/-- `x[r] <- v` and the advance, for a register other than `PC`: value, `PC` and frame. -/
theorem writesOnly_writeReg_advance {r : Reg} (hr : r ≠ .pc) (v : Nat) :
    WritesOnly r v s (s.writeReg r v).advance where
  value := by simp [hr]
  pc := pcAdvanced_writeReg_advance s hr v
  frame := onlyRegs_writeReg_advance s r v

/-! ### Writing one cell, then advancing -/

/-- `MemWrite(a, 1, v)` and the advance: the stored cell, every other cell, `PC` and frame (R33, R85). The
canonical form of the memory is what makes the stored cell read back. -/
theorem storesOnly_memWrite_advance (a v : Nat) (hm : Memory.wf s.mem = true) :
    StoresOnly a v s (s.memWrite a v).advance where
  stored := by simp [State.memRead_memWrite a a v hm]
  mem b hb := by simp [State.memRead_memWrite a b v hm, hb]
  pc := by simp [PcAdvanced]
  regs q hq := by
    have hqpc : q ≠ .pc := by simpa using hq
    simp [hqpc]
  flags := rfl
  halt := rfl
  devices := ⟨rfl, rfl, rfl, rfl⟩
  setup := ⟨rfl, rfl, rfl, rfl, rfl⟩

/-! ### The obligations -/

/-- Settles O10: `STO` stores `ACC` at the address in `MAR`, whatever its operand, and advances. -/
theorem stoWritesTheCellInMarOnly : Obligations.StoWritesTheCellInMarOnly := fun s opd hm =>
  ⟨encodedAs_opcode_operand (.sto opd), rfl, _, exec_sto opd,
    storesOnly_memWrite_advance s (s.reg .mar) (s.reg .acc) hm⟩

/-- Settles O7: each load writes `ACC` and advances; they differ in the word that is read. -/
theorem loadsWriteAccOnly : Obligations.LoadsWriteAccOnly := by
  intro s opd
  have load (v : Nat) := writesOnly_writeReg_advance s (r := .acc) (by decide) v
  refine ⟨⟨encodedAs_opcode_operand (.ldm opd), _, exec_ldm opd, ?literal⟩,
    ⟨encodedAs_opcode_operand (.ldd opd), _, exec_ldd opd, ?direct⟩,
    ⟨encodedAs_opcode_operand (.ldi opd), _, exec_ldi opd, ?indirect⟩⟩
  case literal => exact load opd
  case direct => exact load (s.memRead opd)
  case indirect => exact load (s.memRead (s.memRead opd))

/-- Settles O9: `LDR` and `MOV` write `IX` and advance; only `LDR` looks at the operand. -/
theorem ldrAndMovWriteIxOnly : Obligations.LdrAndMovWriteIxOnly := by
  intro s opd
  have load (v : Nat) := writesOnly_writeReg_advance s (r := .ix) (by decide) v
  refine ⟨⟨encodedAs_opcode_operand (.ldr opd), _, exec_ldr opd, ?literal⟩,
    ⟨encodedAs_opcode_operand (.mov opd), _, exec_mov opd, ?fromAcc⟩⟩
  case literal => exact load opd
  case fromAcc => exact load (s.reg .acc)

end Sys2Proof.Machine
end

section
/-! PROOFS. Arithmetic (43_arithmetic.md): the additions are "write `ACC`, then advance" with the unreduced sum as the
value written; the truncation of the register write is the wrap modulo `2^N`. -/

namespace Sys2Proof.Machine

/-- Writing the integer sum of `ACC` and a word to `ACC` writes their sum as a natural number, wrapped by the
register write, and nothing else but `PC` (R106, R107). -/
theorem writesOnly_accSum_advance (s : State) (v : Nat) :
    WritesOnly .acc (s.reg .acc + v) s (s.writeReg .acc ((s.reg .acc : Int) + v)).advance := by
  have sum_cast : (s.reg .acc : Int) + v = (s.reg .acc + v : Nat) := (Nat.cast_add _ _).symm
  rw [sum_cast]
  exact writesOnly_writeReg_advance s (by decide) _

/-- Settles O20: both additions write the sum of `ACC` and a word and advance; they differ in the word, the cell
the operand names or the operand itself. -/
theorem additionsWrapAndWriteNoFlag : Obligations.AdditionsWrapAndWriteNoFlag := by
  intro s opd
  refine ⟨⟨encodedAs_opcode_operand (.addAddress opd), _, exec_addAddress opd, ?direct⟩,
    ⟨encodedAs_opcode_operand (.addImmediate opd), _, exec_addImmediate opd, ?literal⟩⟩
  case direct => exact writesOnly_accSum_advance s (s.memRead opd)
  case literal => exact writesOnly_accSum_advance s opd

end Sys2Proof.Machine
end

section
/-! PROOFS. Branching (44_branching.md): a taken jump is a write to `PC` with no advance after it; its target and
frame are said once. -/

namespace Sys2Proof.Machine

variable (s : State)

/-- A register write alone touches that register only (R11). -/
theorem onlyRegs_writeReg (r : Reg) (v : Int) : OnlyRegs [r] s (s.writeReg r v) where
  regs q hq := by
    have hqr : q ≠ r := by simpa using hq
    simp [hqr]
  flags := rfl
  halt := rfl
  mem _ := rfl
  devices := ⟨rfl, rfl, rfl, rfl⟩
  setup := ⟨rfl, rfl, rfl, rfl, rfl⟩

/-- `pc <- opd` with the advance suppressed (R85): the target is absolute and unscaled, reduced only by the width
of the register write (R119). -/
theorem jumpsTo_writeReg_pc (opd : Nat) : JumpsTo opd s (s.writeReg .pc opd) where
  pc := by simp
  frame := onlyRegs_writeReg s .pc opd

/-- Settles O23: `JMP` tests nothing, so its outcome is that write of `PC` in every state. -/
theorem jmpSetsPcToItsOperand : Obligations.JmpSetsPcToItsOperand := fun s opd =>
  ⟨encodedAs_opcode_operand (.jmp opd), _, exec_jmp opd, jumpsTo_writeReg_pc s opd⟩

end Sys2Proof.Machine
end

section
/-! PROOFS. Comparison (45_comparison.md): the flag rows of R120 as facts about the one flag computation, the effect
of "compare, then advance" said once, and the three instructions as uses of it. -/

namespace Sys2Proof.Machine

/-! ### The flag rows -/

/-- The difference is `0` exactly when the two words are equal (R120). -/
theorem compareFlags_zero (acc v : Nat) (old : Flags) :
    (compareFlags acc v old).zero = decide (acc = v) :=
  decide_eq_decide.mpr (by omega)

/-- The difference is not truncated, so `carry` is the unsigned order of the words (R120). -/
theorem compareFlags_carry (acc v : Nat) (old : Flags) :
    (compareFlags acc v old).carry = decide (acc < v) :=
  decide_eq_decide.mpr (by omega)

/-- `negative` carries the same sign of the difference as `carry`. -/
theorem compareFlags_negative (acc v : Nat) (old : Flags) :
    (compareFlags acc v old).negative = decide (acc < v) :=
  compareFlags_carry acc v old

/-! ### Comparing, then advancing -/

/-- A comparison of `ACC` with `v` and the advance: the three rows of R120, and all but `PC` as before. -/
theorem compares_compare_advance (s : State) (v : Nat) : Compares v s (s.compare v).advance where
  equal h := by simp [compareFlags_zero, compareFlags_carry, compareFlags_negative, h]
  less h := by simp [compareFlags_zero, compareFlags_carry, compareFlags_negative, h, h.ne]
  greater h := by simp [compareFlags_zero, compareFlags_carry, compareFlags_negative, h.le, h.ne']
  overflow := rfl
  pc := by simp [PcAdvanced]
  regs q hq := by
    have hqpc : q ≠ .pc := by simpa using hq
    simp [hqpc]
  halt := rfl
  mem _ := rfl
  devices := ⟨rfl, rfl, rfl, rfl⟩
  setup := ⟨rfl, rfl, rfl, rfl, rfl⟩

/-- Settles O29: each comparison compares `ACC` with one word and advances; they differ in that word, the cell the
operand names, the operand itself, or the cell that cell names. -/
theorem comparisonsSetTheFlagRows : Obligations.ComparisonsSetTheFlagRows := by
  intro s opd
  refine ⟨⟨encodedAs_opcode_operand (.cmpAddress opd), _, exec_cmpAddress opd, ?direct⟩,
    ⟨encodedAs_opcode_operand (.cmpImmediate opd), _, exec_cmpImmediate opd, ?literal⟩,
    ⟨encodedAs_opcode_operand (.cmiAddress opd), _, exec_cmiAddress opd, ?indirect⟩⟩
  case direct => exact compares_compare_advance s (s.memRead opd)
  case literal => exact compares_compare_advance s opd
  case indirect => exact compares_compare_advance s (s.memRead (s.memRead opd))

end Sys2Proof.Machine
end

section
/-! PROOFS. Exceptions (60_exceptions.md): which instructions can stop and with what, the diagnostic report that
takes the place of an exception at an unattached `OUT`, and the refusal of a narrow width at construction. -/

namespace Sys2Proof.Machine

variable {s : State}

/-! ### The stops of the instructions -/

/-- An `IN` stops for one reason only, a missing device: with one attached it waits or is answered (R100, R132). -/
theorem exec_input_eq_fault {opd : Nat} {f : Fault} :
    exec (.input opd) s = .fault f ↔ s.inAttached = false ∧ f = .fatal .missingDeviceError := by
  obtain ⟨hdev, he⟩ | ⟨hdev, -, he⟩ | ⟨w, rest, hdev, -, he⟩ := exec_input_cases (s := s) opd
  case inl => simp [he, hdev, eq_comm]
  all_goals simp [he, hdev]

/-- An `OUT` never stops the run: unattached it reports, attached it waits or is acknowledged (R101, R141). -/
theorem exec_output_ne_fault {opd : Nat} {f : Fault} : exec (.output opd) s ≠ .fault f := by
  obtain ⟨-, he⟩ | ⟨-, -, he⟩ | ⟨left, -, -, he⟩ := exec_output_cases (s := s) opd
  all_goals simp [he]

/-- All an instruction that stops can be: an `IN` with no device, an `INC` or a `DEC` (the rows of R130 that
`exec` raises; an invalid opcode is raised before, at decode). -/
theorem exec_fault_cases {i : Instr} {f : Fault} (h : exec i s = .fault f) :
    (∃ opd, i = .input opd ∧ s.inAttached = false ∧ f = .fatal .missingDeviceError) ∨
    (∃ opd, i = .inc opd ∧ f = .fatal (.notImplemented 0x24)) ∨
    (∃ opd, i = .dec opd ∧ f = .fatal (.notImplemented 0x25)) := by
  cases i with
  | input opd =>
    obtain ⟨hdev, hf⟩ := exec_input_eq_fault.mp h
    exact .inl ⟨opd, rfl, hdev, hf⟩
  | inc opd =>
    rw [exec_inc, Host.Outcome.fault.injEq] at h
    exact .inr (.inl ⟨opd, rfl, h.symm⟩)
  | dec opd =>
    rw [exec_dec, Host.Outcome.fault.injEq] at h
    exact .inr (.inr ⟨opd, rfl, h.symm⟩)
  | output opd => exact absurd h exec_output_ne_fault
  | ldm opd | ldd opd | ldi opd | ldx opd | ldr opd | mov opd | sto opd | endNop opd | addAddress opd
  | addImmediate opd | subAddress opd | subImmediate opd | jmp opd | jpe opd | jpn opd | endRun opd
  | cmpAddress opd | cmpImmediate opd | cmiAddress opd =>
    simp [exec_ldm, exec_ldd, exec_ldi, exec_ldx, exec_ldr, exec_mov, exec_sto, exec_endNop,
      exec_addAddress, exec_addImmediate, exec_subAddress, exec_subImmediate, exec_jmp, exec_jpe,
      exec_jpn, exec_endRun, exec_cmpAddress, exec_cmpImmediate, exec_cmiAddress] at h

/-! ### The diagnostic report -/

/-- A report adds its word to the diagnostic sequence (R101). -/
@[simp] theorem State.diagnostics_diagnose (s : State) (w : Nat) :
    (s.diagnose w).diagnostics = s.diagnostics ++ [w] := by
  simp [State.diagnostics]

/-- A report is no observable output (R101). -/
@[simp] theorem State.outputs_diagnose (s : State) (w : Nat) : (s.diagnose w).outputs = s.outputs := by
  simp [State.outputs]

/-- A report is no request to the input device. -/
@[simp] theorem State.requestCount_diagnose (s : State) (w : Nat) :
    (s.diagnose w).requestCount = s.requestCount := by
  simp [State.requestCount]

@[simp] theorem State.diagnostics_advance (s : State) : s.advance.diagnostics = s.diagnostics := rfl
@[simp] theorem State.outputs_advance (s : State) : s.advance.outputs = s.outputs := rfl
@[simp] theorem State.requestCount_advance (s : State) : s.advance.requestCount = s.requestCount := rfl

/-- A report and the advance touch `PC` and the device record only. -/
theorem onlyRegsAndDevices_diagnose_advance (s : State) (w : Nat) :
    OnlyRegsAndDevices [.pc] s (s.diagnose w).advance where
  regs q hq := by
    have hqpc : q ≠ .pc := by simpa using hq
    simp [hqpc]
  flags := rfl
  halt := rfl
  mem _ := rfl
  setup := ⟨rfl, rfl, rfl, rfl, rfl⟩

/-! ### Construction -/

/-- Below the minimum width construction answers no state (R131). -/
theorem construct_of_width_lt {c : Configuration} (hc : c.width < 8) :
    construct c = .error .configurationError :=
  if_neg fun hwf => hc.not_ge ((configuration_wellFormed_iff c).mp hwf)

/-- From the minimum width up, construction gives the reset state with the width and the truncated `INIT_REG` of
the configuration (R24, R151). -/
theorem construct_of_le_width {c : Configuration} (hc : 8 ≤ c.width) :
    construct c = .ok { State.reset with width := c.width, regs := truncRegs c.width c.initReg } :=
  if_pos ((configuration_wellFormed_iff c).mpr hc)

/-! ### The obligations -/

/-- Settles O13: of the three instructions that can stop, `IN` alone stops with this condition, and with no device
attached it always does. -/
theorem missingDeviceIsRaisedByInAlone : Obligations.MissingDeviceIsRaisedByInAlone := by
  intro s i
  constructor
  case mp =>
    intro h
    obtain ⟨opd, hi, hdev, -⟩ | ⟨opd, -, hf⟩ | ⟨opd, -, hf⟩ := exec_fault_cases h
    · exact ⟨⟨opd, hi⟩, hdev⟩
    · simp at hf
    · simp at hf
  case mpr =>
    rintro ⟨⟨opd, rfl⟩, hdev⟩
    exact exec_input_missing opd hdev

/-- Settles O16: an unattached `OUT` is a report of `ACC` and the advance, in place of an exception. -/
theorem unattachedOutIsNotFatal : Obligations.UnattachedOutIsNotFatal := fun s opd hdev =>
  ⟨_, exec_output_unattached opd hdev, by simp [PcAdvanced], by simp, by simp, by simp, rfl, rfl, rfl,
    onlyRegsAndDevices_diagnose_advance s (s.reg .acc)⟩

/-- Settles O48: construction is decided by the width alone, at 8. -/
theorem constructionRefusesNarrowWidths : Obligations.ConstructionRefusesNarrowWidths := fun _ =>
  ⟨construct_of_width_lt, fun hc => ⟨_, construct_of_le_width hc, rfl⟩⟩

end Sys2Proof.Machine
end

section
/-! PROOFS. Encoding (30_encoding.md): decoding is the inverse of encoding on the rows of the table, and rejects
exactly the gaps of R57. -/

namespace Sys2Proof.Machine

/-! ### Decoding against encoding -/

/-- A decoded pair of cells is the encoding of what it decodes to, and of nothing else (R50, R56). -/
theorem decode_eq_ok_iff {opc opd : Nat} {i : Instr} : decode opc opd = .ok i ↔ encode i = (opc, opd) := by
  constructor
  case mp =>
    intro h
    unfold decode at h
    split at h
    all_goals cases h
    all_goals rfl
  case mpr =>
    intro h
    obtain ⟨hopc, hopd⟩ : i.opcode = opc ∧ i.operand = opd := Prod.ext_iff.mp h
    rw [← hopc, ← hopd]
    exact (encodedAs_opcode_operand i).2

/-- No opcode of the table lies in a gap of R57. -/
theorem not_invalidOpcode_opcode (i : Instr) : ¬ InvalidOpcode i.opcode := by
  cases i <;> simp [InvalidOpcode, Instr.opcode]

/-- Decoding fails exactly in the gaps of R57, and reports the whole opcode cell (R133). -/
theorem decode_eq_error_iff {opc opd bad : Nat} :
    decode opc opd = .error (.invalidOpcode bad) ↔ bad = opc ∧ InvalidOpcode opc := by
  constructor
  case mp =>
    intro h
    refine ⟨decode_error_opcode h, ?_⟩
    unfold decode at h
    split at h
    case h_24 =>
      simp only [imp_false] at *
      unfold InvalidOpcode
      omega
    all_goals cases h
  case mpr =>
    rintro ⟨rfl, hgap⟩
    cases hd : decode bad opd with
    | ok i =>
      obtain ⟨hopc, -⟩ : i.opcode = bad ∧ i.operand = opd := Prod.ext_iff.mp (decode_eq_ok_iff.mp hd)
      exact absurd (hopc ▸ hgap) (not_invalidOpcode_opcode i)
    | error e =>
      obtain ⟨opc⟩ := e
      rw [decode_error_opcode hd]

/-- "The opcode is an 8-bit unsigned value" (R51). -/
theorem opcode_lt_256 (i : Instr) : i.opcode < 256 := by
  cases i <;> simp [Instr.opcode]

/-- High and low nibble make up a byte (R50). -/
theorem eq_nibbles_of_lt_256 {opc : Nat} (h : opc < 256) : opc = 16 * groupNibble opc + opNibble opc := by
  unfold groupNibble opNibble
  omega

/-! ### What a fetch gives -/

/-- A fetched instruction stands in the two cells at `pc` (R82). -/
theorem fetchOpcode_of_fetch {s : State} {i : Instr} (h : fetch s = .ok i) : fetchOpcode s = i.opcode :=
  (Prod.ext_iff.mp (decode_eq_ok_iff.mp h)).1.symm

/-- In the gaps of R57 a fetch fails with the whole opcode cell. -/
theorem fetch_eq_error_iff {s : State} {bad : Nat} :
    fetch s = .error (.invalidOpcode bad) ↔ bad = fetchOpcode s ∧ InvalidOpcode (fetchOpcode s) :=
  decode_eq_error_iff

/-- An opcode cell that holds the opcode of a row fetches the instruction of that row. -/
theorem fetch_of_fetchOpcode {s : State} {mk : Nat → Instr} {opc : Nat}
    (hmk : ∀ opd, encode (mk opd) = (opc, opd)) (h : fetchOpcode s = opc) :
    fetch s = .ok (mk (fetchOperand s)) :=
  decode_eq_ok_iff.mpr (by rw [hmk, h])

/-! ### The obligations -/

/-- Settles O1: both cells read back what was written to them, the opcode because it is a byte and the width is at
least 8, the operand because it fits; then decoding inverts encoding. -/
theorem encodedInstructionIsFetchedBack : Obligations.EncodedInstructionIsFetchedBack := by
  intro s i hwidth hwf hi
  have hopcode : i.opcode < 2 ^ s.width :=
    (opcode_lt_256 i).trans_le (Nat.pow_le_pow_right (n := 2) (by decide) hwidth)
  have hoperand : i.operand < 2 ^ s.width := (instr_wellFormed_iff s.width i).mp hi
  have hwf' : Memory.wf (s.memWrite (s.reg .pc) i.opcode).mem = true := wf_writeCell _ _ hwf
  refine decode_eq_ok_iff.mpr (Prod.ext ?opcode ?operand)
  case opcode =>
    simp [fetchOpcode, encode, State.memRead_memWrite _ _ _ hwf', State.memRead_memWrite _ _ _ hwf,
      Nat.mod_eq_of_lt hopcode]
  case operand =>
    simp [fetchOperand, encode, State.memRead_memWrite _ _ _ hwf', Nat.mod_eq_of_lt hoperand]

/-- Settles O2: the two directions of the decoder's inverse. -/
theorem decodeAgreesWithEncode : Obligations.DecodeAgreesWithEncode := fun _ _ _ => decode_eq_ok_iff

/-- Settles O3: each row is the encoding of its instruction. -/
theorem opcodeTableRowsDecode : Obligations.OpcodeTableRowsDecode := by
  intro opd
  refine ⟨?_, ?_, ?_, ?_, ?_, ?_, ?_, ?_, ?_, ?_, ?_, ?_, ?_, ?_, ?_, ?_, ?_, ?_, ?_, ?_, ?_, ?_, ?_⟩
  all_goals exact decode_eq_ok_iff.mpr rfl

/-- Settles O4: the opcode of each row, split into its nibbles. -/
theorem opcodeNibblesNameTheGroup : Obligations.OpcodeNibblesNameTheGroup := by
  intro i
  refine ⟨Nat.le_of_lt_succ (opcode_lt_256 i), ?group, eq_nibbles_of_lt_256 (opcode_lt_256 i)⟩
  case group => cases i <;> simp [groupNibble, Instr.opcode, Instr.group, Group.nibble]

end Sys2Proof.Machine
end

section
/-! PROOFS. The effect of one instruction (40_cycle.md section 2): all that an instruction which answers a next state
can have done, said once as `Effect`, and what every effect keeps. -/

namespace Sys2Proof.Machine

/-- A jump of `s` to `opd` is taken (R115, R116, R117). -/
def JumpTaken (s : State) (i : Instr) (opd : Nat) : Prop :=
  i = .jmp opd ∨ i = .jpe opd ∧ s.reg .acc = 0 ∨ i = .jpn opd ∧ s.reg .acc ≠ 0

/-- The effects an instruction can have on `s`, one constructor per kind; `effect_of_exec` ties them to `exec`. -/
inductive Effect (s : State) : Instr → State → Prop
  /-- the loads, `MOV` and the arithmetic: one write to `ACC` or `IX`, then the advance -/
  | writes {i : Instr} {r : Reg} (v : Int) (hi : i.group = .dataMove ∨ i.group = .arithmetic)
      (hr : r = .acc ∨ r = .ix) : Effect s i (s.writeReg r v).advance
  /-- `STO`: one cell written at `MAR`, then the advance -/
  | stores (opd : Nat) : Effect s (.sto opd) (s.memWrite (s.reg .mar) (s.reg .acc)).advance
  /-- `END_NOP` and a branch not taken: the advance alone -/
  | advances {i : Instr} (hi : i.group = .dataMove ∨ i.group = .branching) (hend : ∀ opd, i ≠ .endRun opd) :
      Effect s i s.advance
  /-- a taken jump: `PC` alone -/
  | jumps {i : Instr} {opd : Nat} (hi : JumpTaken s i opd) : Effect s i (s.writeReg .pc opd)
  /-- the branching-group `END`: `halt`, then the advance -/
  | halts (opd : Nat) : Effect s (.endRun opd) s.setHalt.advance
  /-- the comparisons: the flags, then the advance -/
  | compares {i : Instr} (v : Nat) (hi : i.group = .comparison) : Effect s i (s.compare v).advance
  /-- an `IN` without an answer: the request alone -/
  | asks (opd : Nat) (hdev : s.inAttached = true) (hans : s.answers = []) :
      Effect s (.input opd) (s.issue .input .inputRequest)
  /-- an answered `IN`: the request, its answer in `ACC`, then the advance -/
  | answers (opd : Nat) {w : Int} {rest : List Int} (hdev : s.inAttached = true) (hans : s.answers = w :: rest) :
      Effect s (.input opd) (((s.issue .input .inputRequest).answered rest).writeReg .acc w).advance
  /-- an `OUT` without a device: the report, then the advance -/
  | reports (opd : Nat) (hdev : s.outAttached = false) :
      Effect s (.output opd) (s.diagnose (s.reg .acc)).advance
  /-- an `OUT` without an acknowledgment: the hand-off alone -/
  | hands (opd : Nat) (hdev : s.outAttached = true) (hack : s.acks = 0) :
      Effect s (.output opd) (s.issue .output (.output (s.reg .acc)))
  /-- an acknowledged `OUT`: the hand-off, its acknowledgment, then the advance -/
  | acknowledges (opd : Nat) {left : Nat} (hdev : s.outAttached = true) (hack : s.acks = left + 1) :
      Effect s (.output opd) ((s.issue .output (.output (s.reg .acc))).acknowledged left).advance

variable {s t : State} {i : Instr}

/-! ### Every next state is an effect -/

theorem effect_of_exec_input {opd : Nat} (h : exec (.input opd) s = .next t) : Effect s (.input opd) t := by
  obtain ⟨-, he⟩ | ⟨hdev, hans, he⟩ | ⟨w, rest, hdev, hans, he⟩ := exec_input_cases (s := s) opd
  all_goals rw [he] at h; cases h
  · exact .asks opd hdev hans
  · exact .answers opd hdev hans

theorem effect_of_exec_output {opd : Nat} (h : exec (.output opd) s = .next t) : Effect s (.output opd) t := by
  obtain ⟨hdev, he⟩ | ⟨hdev, hack, he⟩ | ⟨left, hdev, hack, he⟩ := exec_output_cases (s := s) opd
  all_goals rw [he] at h; cases h
  · exact .reports opd hdev
  · exact .hands opd hdev hack
  · exact .acknowledges opd hdev hack

theorem effect_of_exec_jpe {opd : Nat} (h : exec (.jpe opd) s = .next t) : Effect s (.jpe opd) t := by
  rw [exec_jpe, Host.Outcome.next.injEq] at h
  rw [← h]
  split
  case isTrue hacc => exact .jumps (.inr (.inl ⟨rfl, hacc⟩))
  case isFalse => exact .advances (.inr rfl) nofun

theorem effect_of_exec_jpn {opd : Nat} (h : exec (.jpn opd) s = .next t) : Effect s (.jpn opd) t := by
  rw [exec_jpn, Host.Outcome.next.injEq] at h
  rw [← h]
  split
  case isTrue => exact .advances (.inr rfl) nofun
  case isFalse hacc => exact .jumps (.inr (.inr ⟨rfl, hacc⟩))

/-- All that an instruction which answers a next state did. -/
theorem effect_of_exec (h : exec i s = .next t) : Effect s i t := by
  cases i with
  | input opd => exact effect_of_exec_input h
  | output opd => exact effect_of_exec_output h
  | jpe opd => exact effect_of_exec_jpe h
  | jpn opd => exact effect_of_exec_jpn h
  | inc opd | dec opd => cases h
  | ldm opd | ldd opd | ldi opd | ldx opd => cases h; exact .writes _ (.inl rfl) (.inl rfl)
  | ldr opd | mov opd => cases h; exact .writes _ (.inl rfl) (.inr rfl)
  | addAddress opd | addImmediate opd | subAddress opd | subImmediate opd =>
    cases h; exact .writes _ (.inr rfl) (.inl rfl)
  | sto opd => cases h; exact .stores opd
  | endNop opd => cases h; exact .advances (.inl rfl) nofun
  | jmp opd => cases h; exact .jumps (.inl rfl)
  | endRun opd => cases h; exact .halts opd
  | cmpAddress opd | cmpImmediate opd | cmiAddress opd => cases h; exact .compares _ rfl

/-! ### What every effect keeps -/

/-- No effect writes the setup (R5, R21, R22). -/
theorem Effect.setupKept (h : Effect s i t) : SetupKept s t := by
  cases h
  all_goals constructor
  all_goals simp

/-- No effect writes a register but `ACC`, `IX` and `PC` (R14, R15, R16; the spec's decision D9). -/
theorem Effect.regsKept (h : Effect s i t) : RegsKept [.acc, .ix, .pc] s t := by
  intro q hq
  obtain ⟨hacc, hix, hpc⟩ : q ≠ .acc ∧ q ≠ .ix ∧ q ≠ .pc := by simpa using hq
  cases h with
  | writes v hi hr =>
    obtain rfl | rfl := hr
    · simp [hacc, hpc]
    · simp [hix, hpc]
  | stores | advances | jumps | halts | compares | asks | answers | reports | hands | acknowledges =>
    simp [hacc, hpc]

/-- Only comparisons write a flag (R18). -/
theorem Effect.flags_of_not_comparison (h : Effect s i t) (hi : i.group ≠ .comparison) : t.flags = s.flags := by
  cases h with
  | compares v hcmp => exact absurd hcmp hi
  | writes | stores | advances | jumps | halts | asks | answers | reports | hands | acknowledges => simp

/-- Nothing writes `overflow` (R120). -/
theorem Effect.overflow (h : Effect s i t) : t.flags.overflow = s.flags.overflow := by
  cases h with
  | compares v => rfl
  | writes | stores | advances | jumps | halts | asks | answers | reports | hands | acknowledges => simp

/-- An instruction of another group is not the branching-group `END`. -/
theorem ne_endRun_of_group (hi : i.group ≠ .branching) : ∀ opd, i ≠ .endRun opd := by
  rintro opd rfl
  exact hi rfl

/-- `END` sets `halt`, and no effect clears it (R19). -/
theorem Effect.halt_iff (h : Effect s i t) : t.halt = true ↔ s.halt = true ∨ ∃ opd, i = .endRun opd := by
  cases h with
  | halts opd => simp
  | writes v hi =>
    have hend := ne_endRun_of_group (i := i) (by obtain hg | hg := hi <;> simp [hg])
    simp [hend]
  | compares v hi =>
    have hend := ne_endRun_of_group (i := i) (by simp [hi])
    simp [hend]
  | advances hi hend => simp [hend]
  | jumps hi => obtain rfl | ⟨rfl, -⟩ | ⟨rfl, -⟩ := hi <;> simp
  | stores | asks | answers | reports | hands | acknowledges => simp

/-- No cell changes but the one that `MAR` addresses (R33, R96). -/
theorem Effect.memKeptExcept (h : Effect s i t) : MemKeptExcept (s.reg .mar) s t := by
  intro b hb
  cases h with
  | stores opd => exact readCell_writeCell_ne _ _ hb
  | writes | advances | jumps | halts | compares | asks | answers | reports | hands | acknowledges => simp

/-- `PC` goes on by 2, to the operand of a taken jump, or nowhere in a step that waits (R85, R102). -/
theorem Effect.pc_cases (h : Effect s i t) :
    PcAdvanced s t ∨ (∃ opd, JumpTaken s i opd ∧ t.reg .pc = opd % 2 ^ s.width) ∨
      (i.group = .inputOutput ∧ t.pending ≠ none ∧ t.reg .pc = s.reg .pc) := by
  cases h with
  | jumps hi => exact .inr (.inl ⟨_, hi, by simp⟩)
  | asks | hands => exact .inr (.inr ⟨rfl, by simp, by simp⟩)
  | writes v hi hr =>
    obtain rfl | rfl := hr
    · exact .inl (pcAdvanced_writeReg_advance s (by decide) v)
    · exact .inl (pcAdvanced_writeReg_advance s (by decide) v)
  | stores | advances | halts | compares | answers | reports | acknowledges =>
    exact .inl (by simp [PcAdvanced])

/-- Outside the I/O group no device is called and none answers. -/
theorem Effect.devicesKept (h : Effect s i t) (hi : i.group ≠ .inputOutput) : DevicesKept s t := by
  cases h with
  | writes | stores | advances | jumps | halts | compares => exact ⟨rfl, rfl, rfl, rfl⟩
  | asks | answers | reports | hands | acknowledges => exact absurd rfl hi

/-- A request adds its event to the record unless it is outstanding already. -/
theorem issue_events_eq_append (s : State) (req : Request) (ev : Event) :
    ∃ calls, (s.issue req ev).events = s.events ++ calls ∧ calls.length ≤ 1 := by
  rw [State.issue_events]
  split
  · exact ⟨[], by simp, by simp⟩
  · exact ⟨[ev], rfl, by simp⟩

/-- Every effect leaves the record of device calls, or appends one call (R41). -/
theorem Effect.events_eq_append (h : Effect s i t) :
    ∃ calls, t.events = s.events ++ calls ∧ calls.length ≤ 1 := by
  cases h with
  | asks | answers | hands | acknowledges => exact issue_events_eq_append s _ _
  | reports => exact ⟨[.diagnostic (s.reg .acc)], rfl, by simp⟩
  | writes | stores | advances | jumps | halts | compares => exact ⟨[], by simp, by simp⟩

/-! ### The obligations on single instructions -/

/-- Settles O19. -/
theorem deviceCallsFollowProgramOrder : Obligations.DeviceCallsFollowProgramOrder := fun _ _ _ h =>
  ⟨(effect_of_exec h).events_eq_append, (effect_of_exec h).devicesKept⟩

/-- Settles O26. -/
theorem onlyTakenJumpsRedirectPc : Obligations.OnlyTakenJumpsRedirectPc := fun _ _ _ h =>
  (effect_of_exec h).pc_cases

/-- Settles O27. -/
theorem haltIsSetByEndAlone : Obligations.HaltIsSetByEndAlone := fun _ _ _ h => (effect_of_exec h).halt_iff

/-- Settles O30. -/
theorem onlyComparisonsWriteFlags : Obligations.OnlyComparisonsWriteFlags := fun _ _ _ h =>
  ⟨(effect_of_exec h).flags_of_not_comparison, (effect_of_exec h).overflow⟩

end Sys2Proof.Machine
end

section
/-! PROOFS. Steps and runs (40_cycle.md sections 2 and 3): when a step goes on and when it stops, how a run is made of
its steps, and the facts about runs that follow from one step. -/

namespace Sys2Proof.Machine

variable {s t : State} {i : Instr} {f : Fault}

/-! ### One step -/

/-- A step that answers a next state fetched an instruction in a running state, and had its effect. -/
theorem effect_of_step (h : step s = .next t) : s.Running ∧ ∃ i, fetch s = .ok i ∧ Effect s i t := by
  obtain ⟨hrun, i, hfetch, hexec⟩ := step_next_cases h
  exact ⟨runEnd_eq_none.mp hrun, i, hfetch, effect_of_exec hexec⟩

/-- A running state executes what it fetches (R81 to R84). -/
theorem step_of_fetch (hrun : s.Running) (hfetch : fetch s = .ok i) : step s = exec i s := by
  simp [step, runEnd_eq_none.mpr hrun, hfetch]

/-- Where the loop test ends the run, the step reports its reason (R86). -/
theorem step_of_runEnd (h : runEnd s = some f) : step s = .fault f := by
  simp [step, h]

/-- A running state whose opcode cell is in no row raises `InvalidOpcodeError` of that cell (R133). -/
theorem step_of_invalidOpcode (hrun : s.Running) (hgap : InvalidOpcode (fetchOpcode s)) :
    step s = .fault (.fatal (.invalidOpcodeError (fetchOpcode s))) := by
  simp [step, runEnd_eq_none.mpr hrun, fetch_eq_error_iff.mpr ⟨rfl, hgap⟩, raise]

/-- `INC` and `DEC` raise `NotImplemented` of their own opcode (R110, R111). -/
theorem step_of_notImplemented (hrun : s.Running) (hopc : fetchOpcode s = 0x24 ∨ fetchOpcode s = 0x25) :
    step s = .fault (.fatal (.notImplemented (fetchOpcode s))) := by
  obtain hopc | hopc := hopc
  · rw [step_of_fetch hrun (fetch_of_fetchOpcode (mk := .inc) (fun _ => rfl) hopc), exec_inc, hopc]
  · rw [step_of_fetch hrun (fetch_of_fetchOpcode (mk := .dec) (fun _ => rfl) hopc), exec_dec, hopc]

/-- An `IN` with no device raises `MissingDeviceError` (R132). -/
theorem step_of_missingDevice (hrun : s.Running) (hopc : fetchOpcode s = 0x10) (hdev : s.inAttached = false) :
    step s = .fault (.fatal .missingDeviceError) := by
  rw [step_of_fetch hrun (fetch_of_fetchOpcode (mk := .input) (fun _ => rfl) hopc), exec_input_missing _ hdev]

/-- Every instruction has a meaning. -/
theorem exec_ne_refused (i : Instr) (s : State) (r : Refusal) : exec i s ≠ .refused r := by
  cases i with
  | input opd =>
    obtain ⟨-, he⟩ | ⟨-, -, he⟩ | ⟨w, rest, -, -, he⟩ := exec_input_cases (s := s) opd
    all_goals simp [he]
  | output opd =>
    obtain ⟨-, he⟩ | ⟨-, -, he⟩ | ⟨left, -, -, he⟩ := exec_output_cases (s := s) opd
    all_goals simp [he]
  | jpe opd => simp [exec_jpe]
  | jpn opd => simp [exec_jpn]
  | ldm | ldd | ldi | ldx | ldr | mov | sto | endNop | addAddress | addImmediate | subAddress
  | subImmediate | inc | dec | jmp | endRun | cmpAddress | cmpImmediate | cmiAddress => nofun

/-- Settles O43: the loop test and decode stop a step, and no instruction is refused. -/
theorem noStepIsRefused : Obligations.NoStepIsRefused := by
  intro s r h
  unfold step at h
  split at h
  · cases h
  · split at h
    · cases h
    · exact exec_ne_refused _ s r h

/-- A step goes on or stops. -/
theorem step_next_or_fault (s : State) : (∃ t, step s = .next t) ∨ ∃ f, step s = .fault f := by
  cases h : step s with
  | next t => exact .inl ⟨t, rfl⟩
  | fault f => exact .inr ⟨f, rfl⟩
  | refused r => exact absurd h (noStepIsRefused s r)

/-! ### The obligations on one step -/

/-- Settles O6. -/
theorem stepRunsTheFetchedInstruction : Obligations.StepRunsTheFetchedInstruction :=
  fun _ _ hin hhalt hpc hdecode => step_of_fetch ⟨hin, hhalt, hpc⟩ hdecode

/-- Settles O42: a stop comes from the loop test, from decode, or from one of the three instructions that can
stop; each of these stops where the rules say. -/
theorem stepStopsExactlyWhenTheRulesSay : Obligations.StepStopsExactlyWhenTheRulesSay := by
  intro s f
  constructor
  case mp =>
    intro h
    obtain hend | ⟨hrun, opc, hfetch, rfl⟩ | ⟨hrun, i, hfetch, hexec⟩ := step_fault_cases h
    · cases f with
      | noRun => exact .inl ⟨rfl, runEnd_eq_noRun.mp hend⟩
      | halted => exact .inr (.inl ⟨rfl, runEnd_eq_halted.mp hend⟩)
      | exhausted => exact .inr (.inr (.inl ⟨rfl, runEnd_eq_exhausted.mp hend⟩))
      | fatal c => exact absurd hend runEnd_ne_fatal
    · obtain ⟨rfl, hgap⟩ := fetch_eq_error_iff.mp hfetch
      exact .inr (.inr (.inr ⟨runEnd_eq_none.mp hrun, .inl ⟨rfl, hgap⟩⟩))
    · refine .inr (.inr (.inr ⟨runEnd_eq_none.mp hrun, .inr ?_⟩))
      have hopc := fetchOpcode_of_fetch hfetch
      obtain ⟨opd, rfl, hdev, rfl⟩ | ⟨opd, rfl, rfl⟩ | ⟨opd, rfl, rfl⟩ := exec_fault_cases hexec
      · exact .inr ⟨rfl, hopc, hdev⟩
      · exact .inl ⟨by rw [hopc]; rfl, .inl hopc⟩
      · exact .inl ⟨by rw [hopc]; rfl, .inr hopc⟩
  case mpr =>
    rintro (⟨rfl, hin⟩ | ⟨rfl, hhalt⟩ | ⟨rfl, hpc⟩ |
      ⟨hrun, ⟨rfl, hgap⟩ | ⟨rfl, hopc⟩ | ⟨rfl, hopc, hdev⟩⟩)
    · exact step_of_runEnd (runEnd_eq_noRun.mpr hin)
    · exact step_of_runEnd (runEnd_eq_halted.mpr hhalt)
    · exact step_of_runEnd (runEnd_eq_exhausted.mpr hpc)
    · exact step_of_invalidOpcode hrun hgap
    · exact step_of_notImplemented hrun hopc
    · exact step_of_missingDevice hrun hopc hdev

/-- Settles O5: of the stops of a running state, the one that reports an invalid opcode. -/
theorem invalidOpcodesAreFatal : Obligations.InvalidOpcodesAreFatal := by
  intro s opc hrun
  constructor
  case mp =>
    intro h
    obtain ⟨rfl, hgap⟩ : opc = fetchOpcode s ∧ InvalidOpcode (fetchOpcode s) := by
      simpa [hrun] using (stepStopsExactlyWhenTheRulesSay s _).mp h
    exact ⟨rfl, hgap⟩
  case mpr =>
    rintro ⟨rfl, hgap⟩
    exact step_of_invalidOpcode hrun hgap

theorem setupKept_of_step (h : step s = .next t) : SetupKept s t := by
  obtain ⟨-, i, -, heff⟩ := effect_of_step h
  exact heff.setupKept

/-- Settles O37. -/
theorem stepKeepsInertState : Obligations.StepKeepsInertState := by
  intro s t h
  obtain ⟨-, i, -, heff⟩ := effect_of_step h
  exact ⟨heff.regsKept .cir (by decide), heff.regsKept .mar (by decide), heff.regsKept .mdr (by decide),
    heff.overflow, heff.setupKept⟩

/-! ### A run, step by step -/

theorem run_succ_of_next {k : Nat} (h : step s = .next t) : run (k + 1) s = run k t := by
  simp [run, h]

theorem run_succ_of_fault {k : Nat} (h : step s = .fault f) : run (k + 1) s = ⟨some f, s.endRun⟩ := by
  simp [run, h]

/-- A run with no outcome is continued from the state it left. -/
theorem run_add_of_outcome_none (m n : Nat) (h : (run m s).outcome = none) :
    run (m + n) s = run n (run m s).final := by
  induction m generalizing s with
  | zero => simp [run]
  | succ m ih =>
    rw [Nat.succ_add_eq_add_succ, Nat.add_succ]
    obtain ⟨t, hstep⟩ | ⟨f, hstep⟩ := step_next_or_fault s
    · rw [run_succ_of_next hstep] at h ⊢
      rw [ih h, run_succ_of_next hstep]
    · simp [run_succ_of_fault hstep] at h

/-- A run with an outcome stays as it ended. -/
theorem run_add_of_outcome_some (m n : Nat) (h : (run m s).outcome ≠ none) : run (m + n) s = run m s := by
  induction m generalizing s with
  | zero => exact absurd rfl h
  | succ m ih =>
    rw [Nat.succ_add_eq_add_succ, Nat.add_succ]
    obtain ⟨t, hstep⟩ | ⟨f, hstep⟩ := step_next_or_fault s
    · rw [run_succ_of_next hstep] at h ⊢
      rw [ih h, run_succ_of_next hstep]
    · rw [run_succ_of_fault hstep, run_succ_of_fault hstep]

/-- What holds at the start and is kept by every step holds of the state of a run with no outcome. -/
theorem run_final_of_outcome_none {P : State → Prop} (hnext : ∀ s t, P s → step s = .next t → P t)
    (k : Nat) (hs : P s) (h : (run k s).outcome = none) : P (run k s).final := by
  induction k generalizing s with
  | zero => exact hs
  | succ k ih =>
    obtain ⟨t, hstep⟩ | ⟨f, hstep⟩ := step_next_or_fault s
    · rw [run_succ_of_next hstep] at h ⊢
      exact ih (hnext s t hs hstep) h
    · simp [run_succ_of_fault hstep] at h

/-- An outcome comes from the step of a state that the run reached without one. -/
theorem exists_stop_of_outcome_some (k : Nat) (h : (run k s).outcome = some f) :
    ∃ j u, j < k ∧ run j s = ⟨none, u⟩ ∧ step u = .fault f ∧ (run k s).final = u.endRun := by
  induction k generalizing s with
  | zero => cases h
  | succ k ih =>
    obtain ⟨t, hstep⟩ | ⟨g, hstep⟩ := step_next_or_fault s
    · rw [run_succ_of_next hstep] at h ⊢
      obtain ⟨j, u, hj, hrun, hstop, hfinal⟩ := ih h
      exact ⟨j + 1, u, Nat.succ_lt_succ hj, (run_succ_of_next hstep).trans hrun, hstop, hfinal⟩
    · rw [run_succ_of_fault hstep] at h ⊢
      cases h
      exact ⟨0, s, Nat.succ_pos k, rfl, hstep, rfl⟩

/-- The induction over runs: what holds at the start, is kept by every step and by the end of a run at a state
whose step stops, holds of every final state. -/
theorem run_final_induction {P : State → Prop} (hnext : ∀ s t, P s → step s = .next t → P t)
    (hstop : ∀ s f, P s → step s = .fault f → P s.endRun) (k : Nat) (hs : P s) : P (run k s).final := by
  cases hout : (run k s).outcome with
  | none => exact run_final_of_outcome_none hnext k hs hout
  | some f =>
    obtain ⟨j, u, -, hreach, hfault, hfinal⟩ := exists_stop_of_outcome_some k hout
    have hu : P (run j s).final := run_final_of_outcome_none hnext j hs (by rw [hreach])
    rw [hreach] at hu
    exact hfinal ▸ hstop u f hu hfault

/-- A step that changes nothing makes a run without end. -/
theorem run_of_step_self (k : Nat) (h : step s = .next s) : run k s = ⟨none, s⟩ := by
  induction k with
  | zero => rfl
  | succ k ih => rw [run_succ_of_next h, ih]

/-! ### The obligations on runs -/

/-- The bit that a run is in progress stays as it was until there is an outcome. -/
theorem run_final_inRun_of_outcome_none (k : Nat) (h : (run k s).outcome = none) :
    (run k s).final.inRun = s.inRun :=
  run_final_of_outcome_none (P := fun u => u.inRun = s.inRun)
    (fun _ _ hu hstep => (setupKept_of_step hstep).inRun.trans hu) k rfl h

/-- Settles O44: the outcome's own step, and what the rules on stops say of the state it was asked at. -/
theorem runOutcomeDescribesItsFinalState : Obligations.RunOutcomeDescribesItsFinalState := by
  refine fun s k => ⟨run_final_inRun_of_outcome_none k, fun f h => ?_⟩
  obtain ⟨j, u, hj, hreach, hfault, hfinal⟩ := exists_stop_of_outcome_some k h
  refine ⟨j, u, hj, hreach, hfault, hfinal, ?_⟩
  obtain ⟨rfl, hin⟩ | ⟨rfl, hin, hhalt⟩ | ⟨rfl, hin, hhalt, hpc⟩ | ⟨hrun, hfatal⟩ :=
    (stepStopsExactlyWhenTheRulesSay u f).mp hfault
  · simp [hin]
  · simp [hin, hhalt]
  · simp [hin, hhalt, hpc]
  · obtain ⟨rfl, -⟩ | ⟨rfl, -⟩ | ⟨rfl, -⟩ := hfatal
    all_goals simp [hrun, hrun.1]

/-- Settles O45. -/
theorem runsCompose : Obligations.RunsCompose := fun _ m n =>
  ⟨fun _ => run_succ_of_next, fun _ => run_succ_of_fault, run_add_of_outcome_none m n,
    run_add_of_outcome_some m n⟩

/-- Settles O57: each row of the outcome table is a stop of the first step. -/
theorem runsEndAsTheOutcomeTableSays : Obligations.RunsEndAsTheOutcomeTableSays := by
  refine fun s k hin => ⟨fun hhalt => ?halted, fun hhalt hpc => ?exhausted, fun hrun =>
    ⟨fun hgap => ?invalid, fun hopc => ?notImplemented, fun hopc hdev => ?missing,
      fun i t hfetch hexec => ?next⟩⟩
  case halted => exact run_succ_of_fault (step_of_runEnd (runEnd_eq_halted.mpr ⟨hin, hhalt⟩))
  case exhausted => exact run_succ_of_fault (step_of_runEnd (runEnd_eq_exhausted.mpr ⟨hin, hhalt, hpc⟩))
  case invalid => exact run_succ_of_fault (step_of_invalidOpcode hrun hgap)
  case notImplemented => exact run_succ_of_fault (step_of_notImplemented hrun hopc)
  case missing => exact run_succ_of_fault (step_of_missingDevice hrun hopc hdev)
  case next => exact run_succ_of_next ((step_of_fetch hrun hfetch).trans hexec)

/-- Writing a register's own word back changes nothing, when the word fits. -/
theorem writeReg_reg_self {r : Reg} (h : IsWord s.width (s.reg r)) : s.writeReg r (s.reg r) = s := by
  unfold State.writeReg
  rw [trunc_of_lt h]
  cases r <;> rfl

/-- Settles O28: the jump writes to `PC` what it holds, so the step changes nothing. -/
theorem selfJumpNeverEnds : Obligations.SelfJumpNeverEnds := by
  intro s k hrun hword hfetch
  have hstep : step s = .next s := by rw [step_of_fetch hrun hfetch, exec_jmp, writeReg_reg_self hword]
  exact run_of_step_self k hstep

/-! ### The one cell that stores can reach -/

/-- From `s` to `u` `MAR` is as it was, and so is every cell that it does not address. -/
def OnlyMarCellWritten (s u : State) : Prop :=
  u.reg .mar = s.reg .mar ∧ MemKeptExcept (s.reg .mar) s u

theorem OnlyMarCellWritten.trans {u : State} (hsu : OnlyMarCellWritten s u) (hut : OnlyMarCellWritten u t) :
    OnlyMarCellWritten s t := by
  obtain ⟨hmar, hmem⟩ := hsu
  obtain ⟨hmar', hmem'⟩ := hut
  exact ⟨hmar'.trans hmar, fun b hb => (hmem' b (hmar ▸ hb)).trans (hmem b hb)⟩

theorem onlyMarCellWritten_of_step (h : step s = .next t) : OnlyMarCellWritten s t := by
  obtain ⟨-, i, -, heff⟩ := effect_of_step h
  exact ⟨heff.regsKept .mar (by decide), heff.memKeptExcept⟩

/-- Settles O34: `MAR` never changes, so the one cell that each step of the run can write is always the same. -/
theorem everyStoreOfARunHitsOneCell : Obligations.EveryStoreOfARunHitsOneCell := by
  intro s k
  have start : OnlyMarCellWritten s s := ⟨rfl, fun _ _ => rfl⟩
  have hrun : OnlyMarCellWritten s (run k s).final :=
    run_final_induction (fun _ _ hu hstep => hu.trans (onlyMarCellWritten_of_step hstep)) (fun _ _ hu _ => hu) k start
  exact hrun.2

end Sys2Proof.Machine
end

section
/-! PROOFS. Flags as data without a reader (45_comparison.md): replacing them commutes with every instruction, every
step and every run, up to the flags themselves. -/

namespace Sys2Proof.Machine

/-- An outcome with the flags of its next state, if it has one, replaced. -/
def outcomeWithFlags (g : Flags) : StepOutcome → StepOutcome
  | .next t => .next (t.withFlags g)
  | .fault r => .fault r
  | .refused r => .refused r

variable (s : State) (f : Flags)

/-- A request is made the same way under other flags. -/
theorem issue_withFlags (req : Request) (ev : Event) :
    (s.withFlags f).issue req ev = (s.issue req ev).withFlags f := by
  have hpending : (s.withFlags f).pending = s.pending := rfl
  by_cases h : s.pending = some req
  · simp only [State.issue, hpending, if_pos h]
  · simp only [State.issue, hpending, if_neg h]
    rfl

theorem exec_input_withFlags (opd : Nat) :
    exec (.input opd) (s.withFlags f) = outcomeWithFlags f (exec (.input opd) s) := by
  obtain ⟨hdev, he⟩ | ⟨hdev, hans, he⟩ | ⟨w, rest, hdev, hans, he⟩ := exec_input_cases (s := s) opd
  · rw [he, exec_input_missing (s := s.withFlags f) opd hdev]
    rfl
  · rw [he, exec_input_waits (s := s.withFlags f) opd hdev hans, issue_withFlags]
    rfl
  · rw [he, exec_input_answered (s := s.withFlags f) opd hdev hans, issue_withFlags]
    rfl

theorem exec_output_withFlags (opd : Nat) :
    exec (.output opd) (s.withFlags f) = outcomeWithFlags f (exec (.output opd) s) := by
  obtain ⟨hdev, he⟩ | ⟨hdev, hack, he⟩ | ⟨left, hdev, hack, he⟩ := exec_output_cases (s := s) opd
  · rw [he, exec_output_unattached (s := s.withFlags f) opd hdev]
    rfl
  · rw [he, exec_output_waits (s := s.withFlags f) opd hdev hack, issue_withFlags]
    rfl
  · rw [he, exec_output_acknowledged (s := s.withFlags f) opd hdev hack, issue_withFlags]
    rfl

/-- Every instruction does the same under other flags, the comparisons but for the flags they write (R124). -/
theorem exec_withFlags (i : Instr) :
    ∃ g, exec i (s.withFlags f) = outcomeWithFlags g (exec i s) := by
  cases i with
  | input opd => exact ⟨f, exec_input_withFlags s f opd⟩
  | output opd => exact ⟨f, exec_output_withFlags s f opd⟩
  | jpe opd =>
    refine ⟨f, ?_⟩
    rw [exec_jpe, exec_jpe]
    exact congrArg Host.Outcome.next
      (apply_ite (fun t : State => t.withFlags f) (s.reg .acc = 0) (s.writeReg .pc opd) s.advance).symm
  | jpn opd =>
    refine ⟨f, ?_⟩
    rw [exec_jpn, exec_jpn]
    exact congrArg Host.Outcome.next
      (apply_ite (fun t : State => t.withFlags f) (s.reg .acc = 0) s.advance (s.writeReg .pc opd)).symm
  | cmpAddress opd => exact ⟨compareFlags (s.reg .acc) (s.memRead opd) f, rfl⟩
  | cmpImmediate opd => exact ⟨compareFlags (s.reg .acc) opd f, rfl⟩
  | cmiAddress opd => exact ⟨compareFlags (s.reg .acc) (s.memRead (s.memRead opd)) f, rfl⟩
  | ldm | ldd | ldi | ldx | ldr | mov | sto | endNop | addAddress | addImmediate | subAddress
  | subImmediate | inc | dec | jmp | endRun => exact ⟨f, rfl⟩

/-- Neither the loop test nor the fetch reads a flag, so every step does the same under other flags. -/
theorem step_withFlags : ∃ g, step (s.withFlags f) = outcomeWithFlags g (step s) := by
  have hend : runEnd (s.withFlags f) = runEnd s := rfl
  have hfetch : fetch (s.withFlags f) = fetch s := rfl
  unfold step
  rw [hend, hfetch]
  split
  · exact ⟨f, rfl⟩
  · split
    · exact ⟨f, rfl⟩
    · exact exec_withFlags s f _

/-- Settles O31: by induction on the number of loop tests, each step commuting with the replacement. -/
theorem flagsInfluenceNothingButFlags : Obligations.FlagsInfluenceNothingButFlags := by
  intro s f k
  induction k generalizing s f with
  | zero => exact ⟨rfl, f, rfl⟩
  | succ k ih =>
    obtain ⟨g, hg⟩ := step_withFlags s f
    obtain ⟨t, hstep⟩ | ⟨r, hstep⟩ := step_next_or_fault s
    · rw [hstep] at hg
      rw [run_succ_of_next hstep, run_succ_of_next hg]
      exact ih t g
    · rw [hstep] at hg
      rw [run_succ_of_fault hstep, run_succ_of_fault hg]
      exact ⟨rfl, f, rfl⟩

end Sys2Proof.Machine
end

section
/-! PROOFS. Memory (20_memory.md): what the next fetch sees of a store, and canonical memories as the total maps they
stand for. -/

namespace Sys2Proof.Machine

/-- Settles O33: both cells of the next fetch are reads after the one write. -/
theorem storeIsSeenByTheNextFetch : Obligations.StoreIsSeenByTheNextFetch := by
  intro s t opd hwf hexec
  rw [exec_sto, Host.Outcome.next.injEq] at hexec
  have hread (b : Nat) :
      t.memRead b = if b = s.reg .mar then s.reg .acc % 2 ^ s.width else s.memRead b := by
    rw [← hexec, State.memRead_advance, State.memRead_memWrite _ _ _ hwf, trunc_natCast]
  exact ⟨hread _, hread _⟩

/-- A canonical memory lists no address below the first one that does not read 0. -/
theorem le_of_readCell_ne_zero {m : Memory} {lo a : Nat} (hm : Memory.wfFrom lo m = true)
    (h : readCell m a ≠ 0) : lo ≤ a := by
  by_contra hlt
  exact h (readCell_below hm (Nat.lt_of_not_le hlt))

theorem wfFrom_cons {lo a v : Nat} {m : Memory} :
    Memory.wfFrom lo ((a, v) :: m) = true ↔ lo ≤ a ∧ v ≠ 0 ∧ Memory.wfFrom (a + 1) m = true := by
  simp [Memory.wfFrom, and_assoc]

theorem readCell_cons_self (a v : Nat) (m : Memory) : readCell ((a, v) :: m) a = v := by
  simp [readCell]

theorem readCell_cons_ne {a b : Nat} (h : b ≠ a) (v : Nat) (m : Memory) :
    readCell ((a, v) :: m) b = readCell m b := by
  simp [readCell, h]

/-- Canonical memories that read the same are the same list: their first addresses are equal, since each is the
first that does not read 0, then their first words, then their tails. -/
theorem eq_of_readCell_eq {m m' : Memory} {lo : Nat} (hm : Memory.wfFrom lo m = true)
    (hm' : Memory.wfFrom lo m' = true) (h : ∀ a, readCell m a = readCell m' a) : m = m' := by
  induction m generalizing m' lo with
  | nil =>
    cases m' with
    | nil => rfl
    | cons c n' =>
      obtain ⟨b, w⟩ := c
      obtain ⟨-, hw, -⟩ := wfFrom_cons.mp hm'
      exact absurd ((h b).trans (readCell_cons_self b w n')).symm hw
  | cons c n ih =>
    obtain ⟨a, v⟩ := c
    obtain ⟨-, hv, hn⟩ := wfFrom_cons.mp hm
    have hread : readCell m' a = v := (h a).symm.trans (readCell_cons_self a v n)
    cases m' with
    | nil => exact absurd hread.symm hv
    | cons c' n' =>
      obtain ⟨b, w⟩ := c'
      obtain ⟨-, hw, hn'⟩ := wfFrom_cons.mp hm'
      have hread' : readCell ((a, v) :: n) b = w := (h b).trans (readCell_cons_self b w n')
      have hba : b ≤ a := le_of_readCell_ne_zero (wfFrom_cons.mpr ⟨le_rfl, hw, hn'⟩) (hread ▸ hv)
      have hab : a ≤ b := le_of_readCell_ne_zero (wfFrom_cons.mpr ⟨le_rfl, hv, hn⟩) (hread' ▸ hw)
      obtain rfl : a = b := le_antisymm hab hba
      obtain rfl : w = v := (readCell_cons_self a w n').symm.trans hread
      have htail (d : Nat) : readCell n d = readCell n' d := by
        by_cases hd : d = a
        · rw [hd, readCell_below hn (Nat.lt_succ_self a), readCell_below hn' (Nat.lt_succ_self a)]
        · rw [← readCell_cons_ne hd w n, h, readCell_cons_ne hd]
      rw [ih hn hn' htail]

/-- Settles O35. -/
theorem equalReadsMeanEqualMemories : Obligations.EqualReadsMeanEqualMemories := fun _ _ => eq_of_readCell_eq

end Sys2Proof.Machine
end

section
/-! PROOFS. Well-formed states (10_state.md, 42_io.md): the registers, the memory and the outstanding request, each kept
by every effect; then steps, runs and the operations of the host. -/

namespace Sys2Proof.Machine

variable {s t : State} {i : Instr}

/-! ### Registers -/

/-- Every register holds an `N`-bit word. -/
def State.RegsFit (s : State) : Prop :=
  ∀ r, IsWord s.width (s.reg r)

/-- A register write truncates, so it keeps every register an `N`-bit word (R11). -/
theorem State.RegsFit.writeReg (h : s.RegsFit) (r : Reg) (v : Int) : (s.writeReg r v).RegsFit := by
  intro q
  rw [State.reg_writeReg]
  split
  · exact trunc_lt s.width v
  · exact h q

theorem State.RegsFit.advance (h : s.RegsFit) : s.advance.RegsFit :=
  h.writeReg .pc _

theorem State.RegsFit.issue (h : s.RegsFit) (req : Request) (ev : Event) : (s.issue req ev).RegsFit := by
  intro q
  rw [State.reg_issue, State.issue_width]
  exact h q

/-- States with the same width and registers are alike in this. -/
theorem State.RegsFit.of_eq (h : s.RegsFit) (hwidth : t.width = s.width) (hregs : t.regs = s.regs) :
    t.RegsFit := by
  intro q
  rw [State.reg, hregs, hwidth]
  exact h q

theorem Effect.regsFit (heff : Effect s i t) (h : s.RegsFit) : t.RegsFit := by
  cases heff with
  | writes v => exact (h.writeReg _ v).advance
  | stores | halts | compares | reports => exact State.RegsFit.advance (h.of_eq rfl rfl)
  | advances => exact h.advance
  | jumps => exact h.writeReg .pc _
  | asks | hands => exact h.issue _ _
  | answers opd => exact (((h.issue _ _).of_eq rfl rfl).writeReg .acc _).advance
  | acknowledges => exact State.RegsFit.advance ((h.issue _ _).of_eq rfl rfl)

/-! ### Memory -/

/-- The memory stays, or one cell of it is written with a truncated word. -/
theorem Effect.mem_cases (heff : Effect s i t) :
    t.mem = s.mem ∨ ∃ a v, t.mem = writeCell s.mem a (trunc s.width v) := by
  cases heff with
  | stores => exact .inr ⟨_, _, rfl⟩
  | writes | advances | jumps | halts | compares | asks | answers | reports | hands | acknowledges =>
    exact .inl (by simp)

theorem Effect.mem_wf (heff : Effect s i t) (h : Memory.wf s.mem = true) : Memory.wf t.mem = true := by
  obtain hmem | ⟨a, v, hmem⟩ := heff.mem_cases
  · rw [hmem, h]
  · rw [hmem]
    exact wf_writeCell a _ h

theorem Effect.mem_fits (heff : Effect s i t) (h : Memory.fits s.width s.mem = true) :
    Memory.fits t.width t.mem = true := by
  rw [heff.setupKept.width]
  obtain hmem | ⟨a, v, hmem⟩ := heff.mem_cases
  · rw [hmem, h]
  · rw [hmem]
    exact fits_writeCell a (trunc_lt s.width v) h

/-! ### The outstanding request -/

/-- A state that waits stands at the `IN` or `OUT` whose device, attached, it waits for (R102). -/
theorem fetch_of_waiting {req : Request} (h : s.Waiting req) :
    (req = .input ∧ s.inAttached = true ∧ fetch s = .ok (.input (fetchOperand s))) ∨
    (req = .output ∧ s.outAttached = true ∧ fetch s = .ok (.output (fetchOperand s))) := by
  cases req with
  | input =>
    obtain ⟨-, hdev, hopc, -⟩ := h
    exact .inl ⟨rfl, hdev, fetch_of_fetchOpcode (fun _ => rfl) hopc⟩
  | output =>
    obtain ⟨-, hdev, hopc, -⟩ := h
    exact .inr ⟨rfl, hdev, fetch_of_fetchOpcode (fun _ => rfl) hopc⟩

theorem running_of_waiting {req : Request} (h : s.Waiting req) : s.Running := by
  cases req with
  | input => exact h.1
  | output => exact h.1

/-- No request is outstanding at an instruction outside the I/O group. -/
theorem pending_none_of_group (hwait : ∀ req, s.pending = some req → s.Waiting req) (hfetch : fetch s = .ok i)
    (hi : i.group ≠ .inputOutput) : s.pending = none := by
  cases hpend : s.pending with
  | none => rfl
  | some req =>
    obtain ⟨-, -, hio⟩ | ⟨-, -, hio⟩ := fetch_of_waiting (hwait req hpend)
    all_goals
      obtain rfl : i = _ := Except.ok.inj (hfetch.symm.trans hio)
      exact absurd rfl hi

/-- No request is outstanding at an `OUT` without a device. -/
theorem pending_none_of_unattached (hwait : ∀ req, s.pending = some req → s.Waiting req) {opd : Nat}
    (hfetch : fetch s = .ok (.output opd)) (hdev : s.outAttached = false) : s.pending = none := by
  cases hpend : s.pending with
  | none => rfl
  | some req =>
    obtain ⟨-, -, hio⟩ | ⟨-, hatt, -⟩ := fetch_of_waiting (hwait req hpend)
    · cases hfetch.symm.trans hio
    · cases hdev.symm.trans hatt

/-- After a request the last event is its own: recorded now, or by the step that made it. -/
theorem getLast?_issue_events {req : Request} {ev : Event}
    (h : s.pending = some req → s.events.getLast? = some ev) : (s.issue req ev).events.getLast? = some ev := by
  rw [State.issue_events]
  split
  case isTrue hpend => exact h hpend
  case isFalse => exact List.getLast?_concat

theorem running_issue (h : s.Running) (req : Request) (ev : Event) : (s.issue req ev).Running := by
  simpa [State.Running] using h

theorem fetchOpcode_issue (req : Request) (ev : Event) : fetchOpcode (s.issue req ev) = fetchOpcode s := by
  simp [fetchOpcode]

/-- Every effect of the instruction at `pc` leaves a request outstanding only where the state waits for it. -/
theorem Effect.waiting (heff : Effect s i t) (hrun : s.Running) (hfetch : fetch s = .ok i)
    (hwait : ∀ req, s.pending = some req → s.Waiting req) (req : Request) (hreq : t.pending = some req) :
    t.Waiting req := by
  have hopc := fetchOpcode_of_fetch hfetch
  cases heff with
  | asks opd hdev =>
    obtain rfl : Request.input = req := by simpa using hreq
    refine ⟨running_issue hrun _ _, by simpa using hdev, (fetchOpcode_issue _ _).trans hopc, ?_⟩
    refine getLast?_issue_events fun hpend => ?_
    obtain ⟨-, -, -, hlast⟩ := hwait .input hpend
    exact hlast
  | hands opd hdev =>
    obtain rfl : Request.output = req := by simpa using hreq
    refine ⟨running_issue hrun _ _, by simpa using hdev, (fetchOpcode_issue _ _).trans hopc, ?_⟩
    rw [State.reg_issue]
    refine getLast?_issue_events fun hpend => ?_
    obtain ⟨-, -, -, hlast⟩ := hwait .output hpend
    exact hlast
  | answers | acknowledges => cases hreq
  | reports opd hdev =>
    have hnone := pending_none_of_unattached hwait hfetch hdev
    cases hnone.symm.trans hreq
  | writes v hi =>
    have hnone := pending_none_of_group hwait hfetch (by obtain hg | hg := hi <;> simp [hg])
    cases hnone.symm.trans hreq
  | advances hi =>
    have hnone := pending_none_of_group hwait hfetch (by obtain hg | hg := hi <;> simp [hg])
    cases hnone.symm.trans hreq
  | compares v hi =>
    have hnone := pending_none_of_group hwait hfetch (by simp [hi])
    cases hnone.symm.trans hreq
  | jumps hi =>
    have hnone := pending_none_of_group hwait hfetch (by obtain rfl | ⟨rfl, -⟩ | ⟨rfl, -⟩ := hi <;> nofun)
    cases hnone.symm.trans hreq
  | stores | halts =>
    have hnone := pending_none_of_group hwait hfetch nofun
    cases hnone.symm.trans hreq

/-! ### Steps and runs -/

/-- Settles O39: registers, memory and the outstanding request, each kept by the effect of the step. -/
theorem stepKeepsWellFormed : Obligations.StepKeepsWellFormed := by
  intro s t h hstep
  obtain ⟨hrun, i, hfetch, heff⟩ := effect_of_step hstep
  exact {
    width_ok := heff.setupKept.width ▸ h.width_ok
    regs_fit := heff.regsFit h.regs_fit
    mem_canonical := heff.mem_wf h.mem_canonical
    mem_fits := heff.mem_fits h.mem_fits
    waiting := heff.waiting hrun hfetch h.waiting }

/-- A state that waits can make a step. -/
theorem step_of_waiting {req : Request} (h : s.Waiting req) : ∃ t, step s = .next t := by
  have hrun := running_of_waiting h
  obtain ⟨-, hdev, hfetch⟩ | ⟨-, hdev, hfetch⟩ := fetch_of_waiting h
  all_goals rw [step_of_fetch hrun hfetch]
  · obtain ⟨hno, -⟩ | ⟨-, -, he⟩ | ⟨w, rest, -, -, he⟩ := exec_input_cases (s := s) (fetchOperand s)
    · cases hno.symm.trans hdev
    · exact ⟨_, he⟩
    · exact ⟨_, he⟩
  · obtain ⟨-, he⟩ | ⟨-, -, he⟩ | ⟨left, -, -, he⟩ := exec_output_cases (s := s) (fetchOperand s)
    all_goals exact ⟨_, he⟩

namespace State.WellFormed

/-- With no request outstanding a well-formed state stays so, whatever happens to what lies outside the width, the
registers and the memory. -/
theorem of_pending_none (h : s.WellFormed) (hwidth : t.width = s.width) (hregs : t.regs = s.regs)
    (hmem : t.mem = s.mem) (hnone : t.pending = none) : t.WellFormed where
  width_ok := hwidth ▸ h.width_ok
  regs_fit := State.RegsFit.of_eq h.regs_fit hwidth hregs
  mem_canonical := hmem ▸ h.mem_canonical
  mem_fits := by rw [hwidth, hmem]; exact h.mem_fits
  waiting req hreq := by cases hnone.symm.trans hreq

/-- Between runs no request is outstanding. -/
theorem pending_none_of_not_inRun (h : s.WellFormed) (hin : s.inRun = false) : s.pending = none := by
  cases hpend : s.pending with
  | none => rfl
  | some req =>
    obtain ⟨hrun, -⟩ := running_of_waiting (h.waiting req hpend)
    cases hin.symm.trans hrun

/-- No request is outstanding where a step stops. -/
theorem pending_none_of_stop {f : Fault} (h : s.WellFormed) (hstop : step s = .fault f) : s.pending = none := by
  cases hpend : s.pending with
  | none => rfl
  | some req =>
    obtain ⟨t, hstep⟩ := step_of_waiting (h.waiting req hpend)
    cases hstop.symm.trans hstep

/-- The end of a run keeps a state well-formed. -/
theorem endRun {f : Fault} (h : s.WellFormed) (hstop : step s = .fault f) : s.endRun.WellFormed :=
  h.of_pending_none rfl rfl rfl (h.pending_none_of_stop hstop)

theorem run (h : s.WellFormed) (k : Nat) : (run k s).final.WellFormed :=
  run_final_induction stepKeepsWellFormed (fun _ _ hu hstop => hu.endRun hstop) k h

/-! ### The operations of the host -/

theorem attachInput {answers : List Int} (h : s.WellFormed) (ht : attachInput answers s = .ok t) :
    t.WellFormed := by
  unfold Machine.attachInput at ht
  split at ht
  case isTrue => cases ht
  case isFalse hin =>
    cases ht
    exact h.of_pending_none rfl rfl rfl (h.pending_none_of_not_inRun (Bool.eq_false_of_not_eq_true hin))

theorem attachOutput {acks : Nat} (h : s.WellFormed) (ht : attachOutput acks s = .ok t) :
    t.WellFormed := by
  unfold Machine.attachOutput at ht
  split at ht
  case isTrue => cases ht
  case isFalse hin =>
    cases ht
    exact h.of_pending_none rfl rfl rfl (h.pending_none_of_not_inRun (Bool.eq_false_of_not_eq_true hin))

theorem deliverAnswer (h : s.WellFormed) (w : Int) : (deliverAnswer w s).WellFormed where
  width_ok := by simpa using h.width_ok
  regs_fit := State.RegsFit.of_eq h.regs_fit (by simp) (by simp)
  mem_canonical := by simpa using h.mem_canonical
  mem_fits := by simpa using h.mem_fits
  waiting req hreq := by
    have hwait := h.waiting req (by simpa using hreq)
    cases req
    all_goals simpa [State.Waiting, State.Running, fetchOpcode] using hwait

theorem deliverAck (h : s.WellFormed) : (deliverAck s).WellFormed where
  width_ok := by simpa using h.width_ok
  regs_fit := State.RegsFit.of_eq h.regs_fit (by simp) (by simp)
  mem_canonical := by simpa using h.mem_canonical
  mem_fits := by simpa using h.mem_fits
  waiting req hreq := by
    have hwait := h.waiting req (by simpa using hreq)
    cases req
    all_goals simpa [State.Waiting, State.Running, fetchOpcode] using hwait

end State.WellFormed

/-- What a launch that succeeds answers (R80). -/
theorem launch_eq_ok {list : List WirePair} (h : launch list s = .ok t) :
    s.inRun = false ∧ wireListWellFormed list = true ∧
      t = { (loadPairs 0 list s).writeReg .pc 0 with listLen := list.length, halt := false, inRun := true } := by
  unfold launch at h
  split at h
  case isTrue => cases h
  case isFalse hin =>
    split at h
    case isTrue hlist =>
      cases h
      exact ⟨Bool.eq_false_of_not_eq_true hin, hlist, rfl⟩
    case isFalse => cases h

theorem State.WellFormed.launch {list : List WirePair} (h : s.WellFormed) (ht : launch list s = .ok t) :
    t.WellFormed := by
  obtain ⟨hin, -, rfl⟩ := launch_eq_ok ht
  have hkept := loadPairs_eq list 0 s
  have hregs : (loadPairs 0 list s).RegsFit := State.RegsFit.of_eq h.regs_fit (by rw [hkept]) (by rw [hkept])
  have hwidth : (loadPairs 0 list s).width = s.width := by rw [hkept]
  have hpending : (loadPairs 0 list s).pending = s.pending := by rw [hkept]
  have hnone := hpending.trans (h.pending_none_of_not_inRun hin)
  exact {
    width_ok := hwidth.symm ▸ h.width_ok
    regs_fit := (hregs.writeReg .pc 0).of_eq rfl rfl
    mem_canonical := wf_loadPairs list 0 h.mem_canonical
    mem_fits := hwidth.symm ▸ fits_loadPairs list 0 h.mem_fits
    waiting := fun req hreq => by cases hnone.symm.trans hreq }

/-- Construction truncates `INIT_REG`, and everything else is as at reset (R24, R151). -/
theorem wellFormed_of_construct {c : Configuration} (h : construct c = .ok t) : t.WellFormed := by
  obtain hc | hc := Nat.lt_or_ge c.width 8
  · rw [construct_of_width_lt hc] at h
    cases h
  · rw [construct_of_le_width hc] at h
    cases h
    exact {
      width_ok := hc
      regs_fit := fun r => (getReg_truncRegs c.width c.initReg r).trans_lt (Nat.mod_lt _ (Nat.two_pow_pos _))
      mem_canonical := wf_reset_mem
      mem_fits := rfl
      waiting := fun _ hreq => by cases hreq }

/-- Settles O41. -/
theorem hostOperationsKeepWellFormed : Obligations.HostOperationsKeepWellFormed :=
  ⟨fun _ _ => wellFormed_of_construct, fun _ _ h =>
    ⟨fun _ => h.attachInput, fun _ => h.attachOutput, fun _ => h.launch, h.deliverAnswer, h.deliverAck, h.run⟩⟩

/-- Settles O40: `State.reset` is what construction gives for the default configuration. -/
theorem resetIsWellFormed : Obligations.ResetIsWellFormed :=
  wellFormed_of_construct (c := ⟨Config.resetWidth, false, Config.zeroRegs⟩) rfl

/-- Settles O46: `Exhausted` would need a `PC` of `2L` or more, and `PC` is an `N`-bit word in every state that the
run reaches. -/
theorem longListsNeverExhaust : Obligations.LongListsNeverExhaust := by
  intro s k h hlong hout
  obtain ⟨j, u, -, hreach, hstop, -⟩ := exists_stop_of_outcome_some k hout
  have hwf : (run j s).final.WellFormed := h.run j
  have hlong' : 2 ^ (run j s).final.width ≤ 2 * (run j s).final.listLen :=
    run_final_induction (P := fun u => 2 ^ u.width ≤ 2 * u.listLen)
      (fun u t hu hstep => by rwa [(setupKept_of_step hstep).width, (setupKept_of_step hstep).listLen])
      (fun _ _ hu _ => hu) j hlong
  rw [hreach] at hwf hlong'
  have hpc : 2 * u.listLen ≤ u.reg .pc := by
    obtain ⟨-, -, hpc⟩ : u.inRun = true ∧ u.halt = false ∧ 2 * u.listLen ≤ u.reg .pc := by
      simpa using (stepStopsExactlyWhenTheRulesSay u .exhausted).mp hstop
    exact hpc
  exact absurd (hlong'.trans hpc) (Nat.not_le.mpr (hwf.regs_fit .pc))

end Sys2Proof.Machine
end

section
/-! PROOFS. Single instructions: the arithmetic with a borrow, the conditional jumps, `END`, `END_NOP`, `LDX`, the
instructions that ignore their operand, and a register write by itself. -/

namespace Sys2Proof.Machine

variable (s : State)

/-- The advance alone touches `PC` only (R85). -/
theorem onlyRegs_advance : OnlyRegs [.pc] s s.advance :=
  onlyRegs_writeReg s .pc _

theorem pcAdvanced_advance : PcAdvanced s s.advance := by
  simp [PcAdvanced]

/-- Writing the integer difference of `ACC` and a word stores its remainder modulo `2^N`, a borrow included
(R105; the spec's decision D3). -/
theorem reg_acc_accDifference_advance (v : Nat) :
    ((s.writeReg .acc ((s.reg .acc : Int) - v)).advance.reg .acc : Int) =
      ((s.reg .acc : Int) - v) % ((2 ^ s.width : Nat) : Int) := by
  rw [State.reg_advance, if_neg (by decide), State.reg_writeReg, if_pos rfl, trunc_cast]

/-- Settles O21: both subtractions write the integer difference of `ACC` and a word and advance. -/
theorem subtractionsWrapAndWriteNoFlag : Obligations.SubtractionsWrapAndWriteNoFlag := by
  intro s opd
  refine ⟨⟨encodedAs_opcode_operand (.subAddress opd), _, exec_subAddress opd, ?address, ?pc, ?frame⟩,
    ⟨encodedAs_opcode_operand (.subImmediate opd), _, exec_subImmediate opd, ?literal, ?pc', ?frame'⟩⟩
  case address => exact reg_acc_accDifference_advance s (s.memRead opd)
  case literal => exact reg_acc_accDifference_advance s opd
  case pc | pc' => exact pcAdvanced_writeReg_advance s (by decide) _
  case frame | frame' => exact onlyRegs_writeReg_advance s .acc _

/-- Settles O22. -/
theorem incAndDecRaiseNotImplemented : Obligations.IncAndDecRaiseNotImplemented := fun _ opd =>
  ⟨⟨encodedAs_opcode_operand (.inc opd), exec_inc opd⟩, ⟨encodedAs_opcode_operand (.dec opd), exec_dec opd⟩⟩

/-- Settles O8: `LDX` writes `ACC`, and the sum that addresses its word is of the registers from before. -/
theorem ldxReadsTheUntruncatedSum : Obligations.LdxReadsTheUntruncatedSum := fun s opd =>
  ⟨encodedAs_opcode_operand (.ldx opd), _, exec_ldx opd,
    writesOnly_writeReg_advance s (by decide) (s.memRead (s.reg .acc + s.reg .ix))⟩

/-- Settles O24: each branch is the jump or the advance, as `ACC` decides. -/
theorem conditionalJumpsTestAcc : Obligations.ConditionalJumpsTestAcc := by
  intro s opd
  refine ⟨encodedAs_opcode_operand (.jpe opd), encodedAs_opcode_operand (.jpn opd), fun hacc => ?zero,
    fun hacc => ?nonzero⟩
  case zero =>
    exact ⟨⟨_, by rw [exec_jpe, if_pos hacc], jumpsTo_writeReg_pc s opd⟩,
      ⟨_, by rw [exec_jpn, if_pos hacc], pcAdvanced_advance s, onlyRegs_advance s⟩⟩
  case nonzero =>
    exact ⟨⟨_, by rw [exec_jpe, if_neg hacc], pcAdvanced_advance s, onlyRegs_advance s⟩,
      ⟨_, by rw [exec_jpn, if_neg hacc], jumpsTo_writeReg_pc s opd⟩⟩

/-- Settles O25: `END` sets `halt` and advances, and the loop test of the next step finds `halt` set. -/
theorem endHaltsTheRun : Obligations.EndHaltsTheRun := by
  intro s opd
  have hframe := onlyRegs_advance s.setHalt
  exact ⟨encodedAs_opcode_operand (.endRun opd), _, exec_endRun opd, rfl, pcAdvanced_advance s.setHalt, hframe.regs,
    hframe.flags, hframe.mem, ⟨rfl, rfl, rfl, rfl⟩, ⟨rfl, rfl, rfl, rfl, rfl⟩,
    fun hin => step_of_runEnd (runEnd_eq_halted.mpr ⟨hin, rfl⟩)⟩

/-- Settles O36. -/
theorem registerWriteTruncates : Obligations.RegisterWriteTruncates := by
  intro s r v
  have hvalue : (s.writeReg r v).reg r = trunc s.width v := by rw [State.reg_writeReg, if_pos rfl]
  refine ⟨?value, ?fits, onlyRegs_writeReg s r v⟩
  case value => rw [hvalue, trunc_cast]
  case fits => exact hvalue ▸ trunc_lt s.width v

/-- Settles O38: no meaning of these instructions names its operand. -/
theorem ignoredOperandsHaveNoEffect : Obligations.IgnoredOperandsHaveNoEffect := by
  intro s a b
  refine ⟨?ldx, ?mov, ?sto, ?endNop, ?input, ?output, ?inc, ?dec, ?endRun⟩
  case ldx => rw [exec_ldx, exec_ldx]
  case mov => rw [exec_mov, exec_mov]
  case sto => rw [exec_sto, exec_sto]
  case endNop => rw [exec_endNop, exec_endNop]
  case input => rfl
  case output => rfl
  case inc => rw [exec_inc, exec_inc]
  case dec => rw [exec_dec, exec_dec]
  case endRun => rw [exec_endRun, exec_endRun]

end Sys2Proof.Machine
end

section
/-! PROOFS. Input and output (42_io.md): a request made once, the answer or acknowledgment that completes it now or
later, and the run that waits for one that never comes. -/

namespace Sys2Proof.Machine

variable (s : State)

/-! ### Frames of the device calls -/

/-- A request touches the device record only (R102). -/
theorem onlyRegsAndDevices_issue (req : Request) (ev : Event) : OnlyRegsAndDevices [] s (s.issue req ev) where
  regs q _ := State.reg_issue s req ev q
  flags := State.issue_flags s req ev
  halt := State.issue_halt s req ev
  mem := State.memRead_issue s req ev
  setup := ⟨by simp, by simp, by simp, by simp, by simp⟩

theorem OnlyRegsAndDevices.refl (written : List Reg) : OnlyRegsAndDevices written s s :=
  ⟨fun _ _ => rfl, rfl, rfl, fun _ => rfl, ⟨rfl, rfl, rfl, rfl, rfl⟩⟩

variable {s} {t u : State}

theorem SetupKept.trans (hst : SetupKept s t) (htu : SetupKept t u) : SetupKept s u where
  width := htu.width.trans hst.width
  listLen := htu.listLen.trans hst.listLen
  inAttached := htu.inAttached.trans hst.inAttached
  outAttached := htu.outAttached.trans hst.outAttached
  inRun := htu.inRun.trans hst.inRun

/-- What is kept by one change and by the next is kept by both; a register not written at all may be any
register. -/
theorem OnlyRegsAndDevices.trans {written : List Reg} (hst : OnlyRegsAndDevices [] s t)
    (htu : OnlyRegsAndDevices written t u) : OnlyRegsAndDevices written s u where
  regs q hq := (htu.regs q hq).trans (hst.regs q List.not_mem_nil)
  flags := htu.flags.trans hst.flags
  halt := htu.halt.trans hst.halt
  mem a := (htu.mem a).trans (hst.mem a)
  setup := hst.setup.trans htu.setup

variable (s)

/-- An answered `IN` touches `ACC`, `PC` and the devices only. -/
theorem onlyRegsAndDevices_answered_advance (rest : List Int) (w : Int) :
    OnlyRegsAndDevices [.acc, .pc] s ((s.answered rest).writeReg .acc w).advance where
  regs q hq := by
    obtain ⟨hacc, hpc⟩ : q ≠ .acc ∧ q ≠ .pc := by simpa using hq
    simp [hacc, hpc]
  flags := rfl
  halt := rfl
  mem _ := rfl
  setup := ⟨rfl, rfl, rfl, rfl, rfl⟩

/-- An acknowledged `OUT` touches `PC` and the devices only. -/
theorem onlyRegsAndDevices_acknowledged_advance (left : Nat) :
    OnlyRegsAndDevices [.pc] s (s.acknowledged left).advance where
  regs q hq := by
    have hpc : q ≠ .pc := by simpa using hq
    simp [hpc]
  flags := rfl
  halt := rfl
  mem _ := rfl
  setup := ⟨rfl, rfl, rfl, rfl, rfl⟩

/-- A late answer touches the devices only (R102). -/
theorem onlyRegsAndDevices_deliverAnswer (w : Int) : OnlyRegsAndDevices [] s (deliverAnswer w s) where
  regs q _ := reg_deliverAnswer s w q
  flags := deliverAnswer_flags s w
  halt := deliverAnswer_halt s w
  mem := memRead_deliverAnswer s w
  setup := ⟨by simp, by simp, by simp, by simp, by simp⟩

theorem onlyRegsAndDevices_deliverAck : OnlyRegsAndDevices [] s (deliverAck s) where
  regs q _ := reg_deliverAck s q
  flags := deliverAck_flags s
  halt := deliverAck_halt s
  mem := memRead_deliverAck s
  setup := ⟨by simp, by simp, by simp, by simp, by simp⟩

/-! ### The obligations on single calls -/

/-- Settles O12. -/
theorem inStoresTheAnswer : Obligations.InStoresTheAnswer := by
  intro s opd w rest hdev hpend hans
  refine ⟨encodedAs_opcode_operand (.input opd), _, exec_input_answered opd hdev hans, ?acc, ?pc, rfl, rfl, ?acks,
    ?events, ?frame⟩
  case acc => simp [trunc_cast]
  case pc => simp [PcAdvanced]
  case acks => simp
  case events => simp [hpend]
  case frame => exact (onlyRegsAndDevices_issue s _ _).trans (onlyRegsAndDevices_answered_advance _ rest w)

/-- Settles O14. -/
theorem inWithoutAnswerWaits : Obligations.InWithoutAnswerWaits := fun s opd hdev hans =>
  ⟨_, exec_input_waits opd hdev hans, by simp, by simpa using hans, by simp, by simp,
    onlyRegsAndDevices_issue s _ _⟩

/-- Handing a word to the output device, when no hand-off is outstanding, adds it to the observable output and to
no other sequence (R101). -/
theorem sequences_issue_output {w : Nat} (hpend : s.pending = none) :
    (s.issue .output (.output w)).outputs = s.outputs ++ [w] ∧
      (s.issue .output (.output w)).diagnostics = s.diagnostics ∧
      (s.issue .output (.output w)).requestCount = s.requestCount := by
  simp [State.outputs, State.diagnostics, State.requestCount, hpend]

/-- Settles O15. -/
theorem outHandsAccToTheDeviceOnce : Obligations.OutHandsAccToTheDeviceOnce := by
  intro s opd hdev hpend
  obtain ⟨hout, hdiag, hcount⟩ := sequences_issue_output s (w := s.reg .acc) hpend
  refine ⟨encodedAs_opcode_operand (.output opd), fun left hack => ?acknowledged, fun hack => ?waits⟩
  case acknowledged =>
    exact ⟨_, exec_output_acknowledged opd hdev hack, by simp [PcAdvanced], rfl, rfl, by simp, hout, hdiag, hcount,
      (onlyRegsAndDevices_issue s _ _).trans (onlyRegsAndDevices_acknowledged_advance _ left)⟩
  case waits =>
    exact ⟨_, exec_output_waits opd hdev hack, by simp, by simpa using hack, by simp, hout, hdiag, hcount,
      onlyRegsAndDevices_issue s _ _⟩

/-! ### A late answer -/

/-- An outstanding request is not made again. -/
theorem issue_of_pending {req : Request} (h : s.pending = some req) (ev : Event) : s.issue req ev = s :=
  if_pos h

/-- The `IN` that waited completes with the answer delivered late: the call it made is not made again. -/
theorem exec_input_deliverAnswer_issue (opd : Nat) (w : Int) (hdev : s.inAttached = true) (hans : s.answers = []) :
    exec (.input opd) (deliverAnswer w (s.issue .input .inputRequest)) =
      .next (((deliverAnswer w (s.issue .input .inputRequest)).answered []).writeReg .acc w).advance := by
  rw [exec_input_answered (w := w) (rest := []) opd (by simp [hdev]) (by simp [hdev, hans]),
    issue_of_pending _ (by simp)]

/-- The `OUT` that waited completes with the acknowledgment delivered late, in the same way. -/
theorem exec_output_deliverAck_issue (opd : Nat) (ev : Event) (hdev : s.outAttached = true) (hack : s.acks = 0) :
    exec (.output opd) (deliverAck (s.issue .output ev)) =
      .next ((deliverAck (s.issue .output ev)).acknowledged 0).advance := by
  rw [exec_output_acknowledged (left := 0) opd (by simp [hdev]) (by simp [hdev, hack]),
    issue_of_pending _ (by simp)]

/-- Settles O17: the first step makes the call, the delivery completes it, and neither makes a second call. -/
theorem lateAnswerCompletesTheWaitingCall : Obligations.LateAnswerCompletesTheWaitingCall := by
  intro s opd hpend
  refine ⟨fun w hdev hans => ?input, fun hdev hack => ?output⟩
  case input =>
    refine ⟨_, _, exec_input_waits opd hdev hans, exec_input_deliverAnswer_issue s opd w hdev hans, ?acc, ?pc, rfl, rfl,
      ?acks, ?events, ?frame⟩
    case acc => simp [trunc_cast]
    case pc => simp [PcAdvanced]
    case acks => simp
    case events => simp [hpend]
    case frame =>
      exact ((onlyRegsAndDevices_issue s _ _).trans (onlyRegsAndDevices_deliverAnswer _ w)).trans
        (onlyRegsAndDevices_answered_advance _ [] w)
  case output =>
    refine ⟨_, _, exec_output_waits opd hdev hack, exec_output_deliverAck_issue s opd _ hdev hack, ?pc, rfl, rfl,
      ?answers, ?events, ?frame⟩
    case pc => simp [PcAdvanced]
    case answers => simp
    case events => simp [hpend]
    case frame =>
      exact ((onlyRegsAndDevices_issue s _ _).trans (onlyRegsAndDevices_deliverAck _)).trans
        (onlyRegsAndDevices_acknowledged_advance _ 0)

/-! ### A run that waits for ever -/

/-- A running state at an `IN` or an `OUT` whose attached device has nothing more to give. -/
def State.Stalled (s : State) : Prop :=
  s.Running ∧ ∃ opd, fetch s = .ok (.input opd) ∧ s.inAttached = true ∧ s.answers = [] ∨
    fetch s = .ok (.output opd) ∧ s.outAttached = true ∧ s.acks = 0

variable {s}

theorem fetch_issue (req : Request) (ev : Event) : fetch (s.issue req ev) = fetch s := by
  simp [fetch, fetchOpcode, fetchOperand]

/-- A stalled state steps to a stalled state, changing no register, cell, flag or `halt`. -/
theorem State.Stalled.step (h : s.Stalled) : ∃ t, step s = .next t ∧ t.Stalled ∧ OnlyRegsAndDevices [] s t := by
  obtain ⟨hrun, opd, ⟨hfetch, hdev, hans⟩ | ⟨hfetch, hdev, hack⟩⟩ := h
  · refine ⟨_, (step_of_fetch hrun hfetch).trans (exec_input_waits opd hdev hans), ?_, onlyRegsAndDevices_issue s _ _⟩
    exact ⟨running_issue hrun _ _, opd, .inl ⟨(fetch_issue _ _).trans hfetch, by simpa using hdev, by simpa using hans⟩⟩
  · refine ⟨_, (step_of_fetch hrun hfetch).trans (exec_output_waits opd hdev hack), ?_, onlyRegsAndDevices_issue s _ _⟩
    exact ⟨running_issue hrun _ _, opd, .inr ⟨(fetch_issue _ _).trans hfetch, by simpa using hdev, by simpa using hack⟩⟩

/-- A stalled state never comes to an outcome. -/
theorem State.Stalled.run (h : s.Stalled) (k : Nat) :
    (run k s).outcome = none ∧ OnlyRegsAndDevices [] s (run k s).final := by
  induction k generalizing s with
  | zero => exact ⟨rfl, .refl s []⟩
  | succ k ih =>
    obtain ⟨t, hstep, ht, hst⟩ := h.step
    rw [run_succ_of_next hstep]
    obtain ⟨hout, hframe⟩ := ih ht
    exact ⟨hout, hst.trans hframe⟩

/-- Settles O18. -/
theorem unansweredDeviceStallsTheRun : Obligations.UnansweredDeviceStallsTheRun :=
  fun _ opd k hrun hstall => State.Stalled.run ⟨hrun, opd, hstall⟩ k

end Sys2Proof.Machine
end

section
/-! PROOFS. The host's operations between runs (70_reset_and_hazards.md): construction, attachment, launch, and when
each is refused. -/

namespace Sys2Proof.Machine

variable {s : State}

/-! ### Construction -/

/-- Settles O47. -/
theorem resetHoldsTheConstructionValues : Obligations.ResetHoldsTheConstructionValues :=
  ⟨fun r => by cases r <;> rfl, rfl, rfl, fun _ => rfl, rfl, rfl, rfl, rfl, rfl⟩

/-- Settles O49: construction reads the width and `INIT_REG` of its configuration, and nothing else. -/
theorem constructionHoldsInitReg : Obligations.ConstructionHoldsInitReg := by
  intro c verbose hc
  refine ⟨?verbose, _, construct_of_le_width hc, getReg_truncRegs c.width c.initReg, rfl, rfl, fun _ => rfl, rfl,
    rfl, rfl, rfl, rfl⟩
  rw [construct_of_le_width hc]
  exact construct_of_le_width (c := { c with verbose := verbose }) hc

/-! ### Attachment -/

theorem attachInput_of_not_inRun (hin : s.inRun = false) (answers : List Int) :
    attachInput answers s = .ok { s with inAttached := true, answers := answers } := by
  simp [attachInput, hin]

theorem attachOutput_of_not_inRun (hin : s.inRun = false) (acks : Nat) :
    attachOutput acks s = .ok { s with outAttached := true, acks := acks } := by
  simp [attachOutput, hin]

/-- Settles O52. -/
theorem attachmentReplacesTheDevice : Obligations.AttachmentReplacesTheDevice := fun _ answers acks hin =>
  ⟨⟨_, attachInput_of_not_inRun hin answers, rfl, rfl, rfl, rfl, rfl, rfl, hin, rfl, rfl, fun _ _ => rfl, rfl, rfl,
      fun _ => rfl⟩,
    ⟨_, attachOutput_of_not_inRun hin acks, rfl, rfl, rfl, rfl, rfl, rfl, hin, rfl, rfl, fun _ _ => rfl, rfl, rfl,
      fun _ => rfl⟩⟩

/-! ### Launch: when it is refused -/

/-- Between runs a list in the wire form launches (R80). -/
theorem launch_of_wellFormed {list : List WirePair} (hin : s.inRun = false) (hlist : wireListWellFormed list = true) :
    launch list s =
      .ok { (loadPairs 0 list s).writeReg .pc 0 with listLen := list.length, halt := false, inRun := true } := by
  simp [launch, hin, hlist]

/-- Between runs a launch is refused for the list alone (R54). -/
theorem launch_eq_listOutsideWireForm {list : List WirePair} (hin : s.inRun = false) :
    launch list s = .error .listOutsideWireForm ↔ ¬ wireListWellFormed list = true := by
  by_cases hlist : wireListWellFormed list = true
  · simp [launch_of_wellFormed hin hlist, hlist]
  · simp [launch, hin, hlist]

/-- A list is in the wire form exactly when every pair is (R54). -/
theorem wireListWellFormed_iff {list : List WirePair} :
    wireListWellFormed list = true ↔ ∀ p ∈ list, 0 ≤ p.opcode ∧ p.opcode ≤ 255 ∧ 0 ≤ p.operand := by
  simp only [wireListWellFormed, List.all_eq_true, wirePair_wellFormed_iff]

/-- Settles O51. -/
theorem launchRefusesListsOutsideTheWireForm : Obligations.LaunchRefusesListsOutsideTheWireForm := by
  intro s list hin
  rw [launch_eq_listOutsideWireForm hin, wireListWellFormed_iff]
  push Not
  refine exists_congr fun p => and_congr_right fun _ => ?_
  omega

/-! ### Launch: what it loads -/

/-- Loading pairs from cell `a` up leaves every cell below `a`, and every cell past the list, as it was. -/
theorem memRead_loadPairs_outside (list : List WirePair) (a : Nat) (s : State) {b : Nat}
    (hb : b < a ∨ a + 2 * list.length ≤ b) : (loadPairs a list s).memRead b = s.memRead b := by
  induction list generalizing a s with
  | nil => rfl
  | cons p ps ih =>
    rw [List.length_cons] at hb
    rw [loadPairs, ih _ _ (by omega)]
    have hfst : b ≠ a := by omega
    have hsnd : b ≠ a + 1 := by omega
    exact (readCell_writeCell_ne _ _ hsnd).trans (readCell_writeCell_ne _ _ hfst)

/-- Loading pairs from cell `a` up writes pair `i` to the cells `a + 2i` and `a + 2i + 1`, truncated (R80). -/
theorem memRead_loadPairs (list : List WirePair) (a : Nat) {s : State} (hwf : Memory.wf s.mem = true) {i : Nat}
    {p : WirePair} (hp : list[i]? = some p) :
    (loadPairs a list s).memRead (a + 2 * i) = trunc s.width p.opcode ∧
      (loadPairs a list s).memRead (a + 2 * i + 1) = trunc s.width p.operand := by
  induction list generalizing a s i with
  | nil => simp at hp
  | cons q qs ih =>
    have hwf' : Memory.wf (s.memWrite a q.opcode).mem = true := wf_writeCell _ _ hwf
    have hwf'' : Memory.wf ((s.memWrite a q.opcode).memWrite (a + 1) q.operand).mem = true := wf_writeCell _ _ hwf'
    cases i with
    | zero =>
      obtain rfl : q = p := by simpa using hp
      rw [loadPairs, memRead_loadPairs_outside _ _ _ (by omega), memRead_loadPairs_outside _ _ _ (by omega)]
      simp [State.memRead_memWrite _ _ _ hwf', State.memRead_memWrite _ _ _ hwf]
    | succ j =>
      have hcell : a + 2 * (j + 1) = a + 2 + 2 * j := by omega
      rw [hcell]
      exact ih (a + 2) hwf'' (by simpa using hp)

/-- Loading pairs leaves every register as it was. -/
theorem reg_loadPairs (list : List WirePair) (a : Nat) (s : State) (r : Reg) :
    (loadPairs a list s).reg r = s.reg r := by
  rw [loadPairs_eq]
  rfl

/-- Settles O50: the cells by what loading writes and leaves, the rest by its changing the memory only. -/
theorem launchLoadsTheList : Obligations.LaunchLoadsTheList := by
  intro s list hin hwf hlist
  refine ⟨_, launch_of_wellFormed hin hlist, fun i p hp => ?pairs, fun a ha => ?rest, rfl, ?pc, rfl, rfl,
    fun r hr => ?regs, ?flags, ?width, ?inAttached, ?outAttached, ?devices⟩
  case pairs =>
    obtain ⟨hopcode, hoperand⟩ := memRead_loadPairs list 0 hwf hp
    rw [Nat.zero_add] at hopcode hoperand
    exact ⟨(congrArg _ hopcode).trans (trunc_cast _ _), (congrArg _ hoperand).trans (trunc_cast _ _)⟩
  case rest => exact memRead_loadPairs_outside list 0 s (.inr (by omega))
  case pc => exact (State.reg_writeReg _ .pc .pc 0).trans (trunc_zero _)
  case regs =>
    have hpc : r ≠ .pc := by simpa using hr
    exact (State.reg_writeReg _ .pc r 0).trans ((if_neg hpc).trans (reg_loadPairs list 0 s r))
  all_goals rw [loadPairs_eq]
  case devices => exact ⟨rfl, rfl, rfl, rfl⟩
  all_goals rfl

/-! ### Between runs only -/

/-- Settles O58: in a run the three operations test the bit first; an outcome clears it, and with the bit clear
nothing but the list can refuse them. -/
theorem hostActsOnlyBetweenRuns : Obligations.HostActsOnlyBetweenRuns := by
  refine fun s => ⟨fun hin => ?refused, fun t hstep => ?inRun, fun k f hout => ?outcome⟩
  case refused =>
    have hlaunch (list : List WirePair) : launch list s = .error .runInProgress := if_pos hin
    exact ⟨fun _ => if_pos hin, fun _ => if_pos hin, hlaunch, fun _ list => by rw [execute, hlaunch]⟩
  case inRun =>
    obtain ⟨⟨hin, -⟩, i, -, heff⟩ := effect_of_step hstep
    exact ⟨hin, heff.setupKept.inRun.trans hin⟩
  case outcome =>
    obtain ⟨j, u, -, -, -, hfinal⟩ := exists_stop_of_outcome_some k hout
    have hin : (run k s).final.inRun = false := by rw [hfinal, State.endRun_inRun]
    exact ⟨hin, step_of_runEnd (runEnd_eq_noRun.mpr hin), fun answers => ⟨_, attachInput_of_not_inRun hin answers⟩,
      fun acks => ⟨_, attachOutput_of_not_inRun hin acks⟩, fun _ hlist => ⟨_, launch_of_wellFormed hin hlist⟩⟩

end Sys2Proof.Machine
end

section
/-! PROOFS. The assembler (30_encoding.md section 5): the opcodes of names, the wire form of what is linked, and the
index that a label stands for. -/

namespace Sys2Proof.Machine

/-! ### The opcodes of names -/

/-- What holds of every opcode of the mnemonic table and of the sentinel `0xFF` holds of the opcode of any name
(R71). -/
theorem opcodeNamed_induction {P : Nat → Prop} (htable : ∀ row ∈ mnemonicTable, P row.2) (hsentinel : P 0xFF)
    (name : Text) : P (opcodeNamed name) := by
  unfold opcodeNamed
  cases hrow : mnemonicTable.lookup name with
  | none => exact hsentinel
  | some opc =>
    obtain ⟨above, below, hsplit, -⟩ := List.lookup_eq_some_iff.mp hrow
    exact htable (name, opc) (hsplit ▸ List.mem_append_cons_self)

/-- The opcode of every name is a byte. -/
theorem opcodeNamed_le_255 (name : Text) : opcodeNamed name ≤ 255 :=
  opcodeNamed_induction (P := (· ≤ 255)) (by decide) (by decide) name

/-- A name outside the mnemonic table has the sentinel opcode (R71). -/
theorem opcodeNamed_of_notMem {name : Text} (h : name ∉ mnemonicTable.map Prod.fst) : opcodeNamed name = 0xFF := by
  have hnone : mnemonicTable.lookup name = none := by
    refine List.lookup_eq_none_iff.mpr fun row hrow => bne_iff_ne.mpr fun hname => h ?_
    exact hname ▸ List.mem_map_of_mem hrow
  rw [opcodeNamed, hnone, Option.getD_none]

/-- Settles O11: the effect is the advance alone, and `0x07` is in no row of the mnemonic table. -/
theorem endNopOnlyAdvancesPc : Obligations.EndNopOnlyAdvancesPc := fun s opd =>
  ⟨encodedAs_opcode_operand (.endNop opd), opcodeNamed_induction (P := (· ≠ 0x07)) (by decide) (by decide), _,
    exec_endNop opd, pcAdvanced_advance s, onlyRegs_advance s⟩

/-- An operand has a value mark exactly when its first character is one of the three (R66). -/
theorem hasValuePrefix_iff (operand : Text) : hasValuePrefix operand = true ↔
    operand.head? = some '#' ∨ operand.head? = some '&' ∨ operand.head? = some 'B' := by
  unfold hasValuePrefix
  split
  case h_4 _ h1 h2 h3 =>
    cases operand with
    | nil => simp
    | cons c cs => simpa using ⟨fun h => h1 cs (h ▸ rfl), fun h => h2 cs (h ▸ rfl), fun h => h3 cs (h ▸ rfl)⟩
  all_goals simp

/-- Settles O53: the three abbreviations are the tests of `resolveMnemonic` in turn, and `CMI` is in no row. -/
theorem abbreviatedMnemonicsFollowTheOperandPrefix : Obligations.AbbreviatedMnemonicsFollowTheOperandPrefix := by
  refine fun operand => ⟨hasValuePrefix_iff operand, fun h => ?value, fun h => ?address,
    fun m hadd hsub hcmp => ?other, opcodeNamed_of_notMem (by decide)⟩
  case value => simp [resolveMnemonic, h]
  case address => simp [resolveMnemonic, h]
  case other => rw [resolveMnemonic, if_neg hadd, if_neg hsub, if_neg hcmp]

/-! ### Linking -/

/-- The pair linked from an instruction carries the opcode of its name (R71). -/
theorem opcode_of_link {params : AssemblerParams} {labels : List (Text × Nat)} {im : Intermediate} {p : WirePair}
    (h : link params labels im = .ok p) : p.opcode = opcodeNamed im.opcodeName := by
  unfold link at h
  split at h
  · cases h
    rfl
  · split at h
    · cases h
      rfl
    · cases h
  · cases h

/-- Settles O54: the 22 names one by one; every other name has no row, `0xFF` is in a gap, and linking looks the name
up. -/
theorem mnemonicsAssembleToTableOpcodes : Obligations.MnemonicsAssembleToTableOpcodes := by
  refine ⟨?_, ?_, ?_, ?_, ?_, ?_, ?_, ?_, ?_, ?_, ?_, ?_, ?_, ?_, ?_, ?_, ?_, ?_, ?_, ?_, ?_, ?_,
    fun name hname => opcodeNamed_of_notMem fun hrow => hname ?others,
    fun opd => decode_eq_error_iff.mpr ⟨rfl, ?sentinel⟩, fun _ _ _ _ => opcode_of_link⟩
  case others =>
    refine (?rows : mnemonicTable.map Prod.fst ⊆ _) hrow
    decide
  case sentinel => unfold InvalidOpcode; decide
  all_goals decide

/-- The operand of a linked pair is not negative, if the number the instruction may hold is not. -/
theorem operand_nonneg_of_link {params : AssemblerParams} {labels : List (Text × Nat)} {im : Intermediate}
    {p : WirePair} (hnum : ∀ n, im.operand = .number n → 0 ≤ n) (h : link params labels im = .ok p) : 0 ≤ p.operand := by
  unfold link at h
  split at h
  case h_1 n hop =>
    cases h
    exact hnum n hop
  case h_2 =>
    split at h
    · cases h
      exact Int.natCast_nonneg _
    · cases h
  case h_3 => cases h

/-- Every pair of a linked program is linked from one of its instructions. -/
theorem exists_link_of_mem_linkAll {params : AssemblerParams} {labels : List (Text × Nat)} {ims : List Intermediate}
    {list : List WirePair} (h : linkAll params labels ims = .ok list) {p : WirePair} (hp : p ∈ list) :
    ∃ im ∈ ims, link params labels im = .ok p := by
  induction ims generalizing list with
  | nil =>
    cases h
    cases hp
  | cons im ims ih =>
    unfold linkAll at h
    split at h
    · cases h
    · rename_i q hq
      split at h
      · cases h
      · rename_i qs hqs
        cases h
        obtain rfl | hp := List.mem_cons.mp hp
        · exact ⟨im, List.mem_cons_self, hq⟩
        · obtain ⟨im', him', hlink⟩ := ih hqs hp
          exact ⟨im', List.mem_cons_of_mem _ him', hlink⟩

/-- A literal has no sign (R67, decision D20). -/
theorem nonneg_of_literal {base : Nat} {digits : Text} {n : Int} (h : literal base digits = .number n) : 0 ≤ n := by
  unfold literal at h
  split at h
  · cases h
  · split at h
    · cases h
      exact Int.natCast_nonneg _
    · cases h

/-- A number from an operand token is a literal, a register index or the 0 of an empty operand (R67, R68, R69). -/
theorem nonneg_of_operandToken {params : AssemblerParams} (hreg : ∀ r, 0 ≤ params.regIdx r) {token : Text} {n : Int}
    (h : operandToken params token = .number n) : 0 ≤ n := by
  unfold operandToken at h
  split at h
  case h_1 => cases h; exact le_rfl
  case h_5 =>
    split at h
    · cases h
      exact hreg _
    · cases h
  all_goals exact nonneg_of_literal h

/-- A line makes an instruction when its aligned mnemonic is not empty (R65). -/
theorem intermediateOf_eq (params : AssemblerParams) (f : Fields) : intermediateOf params f =
    if (alignFields f).second.isEmpty then none
    else some ⟨(alignFields f).first, resolveMnemonic (alignFields f).second (alignFields f).third,
      operandToken params (alignFields f).third⟩ :=
  rfl

theorem operand_of_intermediateOf {params : AssemblerParams} {f : Fields} {im : Intermediate}
    (h : intermediateOf params f = some im) : im.operand = operandToken params (alignFields f).third := by
  rw [intermediateOf_eq] at h
  split at h
  · cases h
  · cases h
    rfl

/-- Settles O55: every pair is linked from an intermediate instruction, whose name has a byte as its opcode and whose
operand is no negative number. -/
theorem assembledListsAreInTheWireForm : Obligations.AssembledListsAreInTheWireForm := by
  intro params text list hreg h
  refine wireListWellFormed_iff.mpr fun p hp => ?_
  obtain ⟨im, him, hlink⟩ := exists_link_of_mem_linkAll h hp
  obtain ⟨f, -, hf⟩ := List.mem_filterMap.mp him
  have hopcode : p.opcode = opcodeNamed im.opcodeName := opcode_of_link hlink
  have hbyte := opcodeNamed_le_255 im.opcodeName
  have hnum (n : Int) (hn : im.operand = .number n) : 0 ≤ n :=
    nonneg_of_operandToken hreg ((operand_of_intermediateOf hf).symm.trans hn)
  exact ⟨by omega, by omega, operand_nonneg_of_link hnum hlink⟩

/-! ### Labels -/

/-- A labelled line makes an instruction unless it holds the label alone (decisions D19, D23). -/
theorem length_intermediates_of_label (params : AssemblerParams) {f : Fields} (hlabel : isLabel f.first = true) :
    (intermediates params [f]).length = if f.second.isEmpty then 0 else 1 := by
  have halign : alignFields f = f := if_pos hlabel
  cases hempty : f.second.isEmpty
  all_goals simp [intermediates, intermediateOf_eq, halign, hempty]

/-- A line without a label makes one instruction, if it has a token at all. -/
theorem length_intermediates_of_not_label (params : AssemblerParams) {f : Fields} (hlabel : ¬ isLabel f.first = true)
    (hfirst : f.first ≠ []) : (intermediates params [f]).length = 1 := by
  have halign : alignFields f = ⟨[], f.first, f.second⟩ := if_neg hlabel
  simp [intermediates, intermediateOf_eq, halign, hfirst]

/-- The instructions of a program are those of its first line, then those of the others. -/
theorem length_intermediates_cons (params : AssemblerParams) (f : Fields) (fs : List Fields) :
    (intermediates params (f :: fs)).length = (intermediates params [f]).length + (intermediates params fs).length := by
  have hsplit : intermediates params (f :: fs) = intermediates params [f] ++ intermediates params fs :=
    List.filterMap_append (l := [f])
  rw [hsplit, List.length_append]

/-- The label table of two parts of a program: the second part's indices start where the instructions of the first
part end. -/
theorem labelTable_append (params : AssemblerParams) (before rest : List Fields) (k : Nat)
    (hfirst : ∀ g ∈ before, g.first ≠ []) : labelTable k (before ++ rest) =
      labelTable k before ++ labelTable (k + (intermediates params before).length) rest := by
  induction before generalizing k with
  | nil => rfl
  | cons g gs ih =>
    have ih' (j : Nat) := ih j fun g' hg' => hfirst g' (List.mem_cons_of_mem g hg')
    rw [length_intermediates_cons, List.cons_append, labelTable, labelTable]
    by_cases hlabel : isLabel g.first = true
    · rw [if_pos hlabel, if_pos hlabel, length_intermediates_of_label params hlabel, ih', List.cons_append,
        ← Nat.add_assoc]
      cases g.second.isEmpty
      all_goals rfl
    · rw [if_neg hlabel, if_neg hlabel,
        length_intermediates_of_not_label params hlabel (hfirst g List.mem_cons_self), ih', ← Nat.add_assoc]

/-- Every name of a label table is the label of a line. -/
theorem exists_label_of_mem_labelTable {lines : List Fields} {k : Nat} {row : Text × Nat}
    (h : row ∈ labelTable k lines) : ∃ g ∈ lines, isLabel g.first = true ∧ row.1 = labelName g.first := by
  induction lines generalizing k with
  | nil => cases h
  | cons g gs ih =>
    rw [labelTable] at h
    split at h
    case isTrue hlabel =>
      obtain rfl | h := List.mem_cons.mp h
      · exact ⟨g, List.mem_cons_self, hlabel, rfl⟩
      · obtain ⟨g', hg', hname⟩ := ih h
        exact ⟨g', List.mem_cons_of_mem g hg', hname⟩
    case isFalse =>
      obtain ⟨g', hg', hname⟩ := ih h
      exact ⟨g', List.mem_cons_of_mem g hg', hname⟩

/-- Settles O56: the table splits at the label's line; its row is there, and no row above has its name. -/
theorem labelIsTheIndexOfItsInstruction : Obligations.LabelIsTheIndexOfItsInstruction := by
  intro params before f after hlabel hfirst
  obtain ⟨below, hbelow⟩ : ∃ below, labelTable 0 (before ++ f :: after) =
      labelTable 0 before ++ (labelName f.first, (intermediates params before).length) :: below := by
    rw [labelTable_append params before (f :: after) 0 hfirst, labelTable, if_pos hlabel, Nat.zero_add]
    exact ⟨_, rfl⟩
  rw [hbelow]
  refine ⟨List.mem_append_cons_self, fun hnew => ?_⟩
  have hlookup : (labelTable 0 before ++ (labelName f.first, (intermediates params before).length) :: below).lookup
      (labelName f.first) = some (intermediates params before).length := by
    refine List.lookup_eq_some_iff.mpr ⟨_, below, rfl, fun row hrow => bne_iff_ne.mpr fun hname => ?_⟩
    obtain ⟨g, hg, hglabel, hrowname⟩ := exists_label_of_mem_labelTable hrow
    exact hnew g hg hglabel (hrowname.symm.trans hname.symm)
  exact ⟨hlookup, fun im him => by simp only [link, him, hlookup]⟩

end Sys2Proof.Machine
end
